-- ==== Sys2Proof/Word.lean ====
section
/-! DEFINITION. The word types of the machine and its fixed sizes (00_scope.md rules R5, R7, R9). -/

namespace Sys2Proof

/-- A byte: 8 bits unsigned (R5, R7). -/
abbrev Byte := BitVec 8

/-- A 16-bit word: an instruction word, `pc`, `I`, a stack entry (R5). -/
abbrev Word := BitVec 16

/-- A register number 0 to 15, the 4-bit field `x` or `y` (R9, R92). -/
abbrev Reg := BitVec 4

/-- The 12-bit address field `nnn` (R9, R92). -/
abbrev Addr := BitVec 12

/-- MEM_SIZE, the number of memory cells (R5). -/
def memSize : Nat := 4096

/-- PROG_BASE, where a program is loaded and entered (R5). -/
def progBase : Nat := 0x200

/-- MAX_IMAGE, the size in bytes of the largest program (R5). -/
def maxImage : Nat := 3584

/-- FB_W, the columns of the framebuffer (R5). -/
def fbWidth : Nat := 64

/-- FB_H, the rows of the framebuffer (R5). -/
def fbHeight : Nat := 32

/-- STACK_DEPTH, the entries of the call stack (R5). -/
def stackDepth : Nat := 16

end Sys2Proof
end

