-- ==== Sys2Proof/Config.lean ====
section
/-! DEFINITION. What the spec leaves free: the random byte. (The other parameter of R6, the font table, has the value
the spec supplies for it and stands in Machine/Ops.lean.) -/

namespace Sys2Proof

/-- `rnd_in` (R34, R171, decision D10): the byte that draw number `k` of `Cxnn` gets. The spec puts it under no law (no
seed, no sequence, no distribution), so it is a FREE VALUE: a constant with no body, of which nothing can be proved.
DESIGN CHOICE (log entry 1): the argument is the counter `State.draws`, so that every draw is a value of its own. Safe:
a claim holds for every sequence of draws. -/
opaque Config.rndIn : Nat → Byte

end Sys2Proof
end

