-- ==== Sys2Proof/Syntax.lean ====
section
/-! DEFINITION. The instruction set as syntax: one constructor per row of spec/opcode_table.json, in its order
(30_encoding.md rule R96). Register numbers, bytes and addresses have the width of their field (R92), so no value
outside the field can be written down; the row count of `Dxyn` is a number, and WellFormed.lean checks its range. -/

namespace Sys2Proof

/-- The 34 instructions (R96). A word that is none of them is no instruction but the no-op of R98. -/
inductive Instr where
  /-- `00E0` CLS (R181). -/
  | cls
  /-- `00EE` RET (R120). -/
  | ret
  /-- `1nnn` JP nnn (R121). -/
  | jpNnn (nnn : Addr)
  /-- `2nnn` CALL nnn (R122). -/
  | callNnn (nnn : Addr)
  /-- `3xnn` SE Vx, nn (R131). -/
  | seVxNn (x : Reg) (nn : Byte)
  /-- `4xnn` SNE Vx, nn (R132). -/
  | sneVxNn (x : Reg) (nn : Byte)
  /-- `5xy0` SE Vx, Vy (R133). -/
  | seVxVy (x y : Reg)
  /-- `6xnn` LD Vx, nn (R141). -/
  | ldVxNn (x : Reg) (nn : Byte)
  /-- `7xnn` ADD Vx, nn (R142). -/
  | addVxNn (x : Reg) (nn : Byte)
  /-- `8xy0` LD Vx, Vy (R143). -/
  | ldVxVy (x y : Reg)
  /-- `8xy1` OR Vx, Vy (R144). -/
  | orVxVy (x y : Reg)
  /-- `8xy2` AND Vx, Vy (R145). -/
  | andVxVy (x y : Reg)
  /-- `8xy3` XOR Vx, Vy (R146). -/
  | xorVxVy (x y : Reg)
  /-- `8xy4` ADD Vx, Vy (R147). -/
  | addVxVy (x y : Reg)
  /-- `8xy5` SUB Vx, Vy (R148). -/
  | subVxVy (x y : Reg)
  /-- `8xy6` SHR Vx (R150); `y` stands in the word and is ignored (R95). -/
  | shrVx (x y : Reg)
  /-- `8xy7` SUBN Vx, Vy (R149). -/
  | subnVxVy (x y : Reg)
  /-- `8xyE` SHL Vx (R151); `y` stands in the word and is ignored (R95). -/
  | shlVx (x y : Reg)
  /-- `9xy0` SNE Vx, Vy (R134). -/
  | sneVxVy (x y : Reg)
  /-- `Annn` LD I, nnn (R161). -/
  | ldINnn (nnn : Addr)
  /-- `Bnnn` JP V0, nnn (R123). -/
  | jpV0Nnn (nnn : Addr)
  /-- `Cxnn` RND Vx, nn (R171). -/
  | rndVxNn (x : Reg) (nn : Byte)
  /-- `Dxyn` DRW Vx, Vy, n (R182); `n` is the row count 0 to 15 (R92). -/
  | drwVxVyN (x y : Reg) (n : Nat)
  /-- `Ex9E` SKP Vx (R175). -/
  | skpVx (x : Reg)
  /-- `ExA1` SKNP Vx (R176). -/
  | sknpVx (x : Reg)
  /-- `Fx07` LD Vx, DT (R172). -/
  | ldVxDt (x : Reg)
  /-- `Fx0A` LD Vx, K (R177). -/
  | ldVxK (x : Reg)
  /-- `Fx15` LD DT, Vx (R173). -/
  | ldDtVx (x : Reg)
  /-- `Fx18` LD ST, Vx (R174). -/
  | ldStVx (x : Reg)
  /-- `Fx1E` ADD I, Vx (R162). -/
  | addIVx (x : Reg)
  /-- `Fx29` LD F, Vx (R163). -/
  | ldFVx (x : Reg)
  /-- `Fx33` LD B, Vx (R164). -/
  | ldBVx (x : Reg)
  /-- `Fx55` LD [I], Vx (R165). -/
  | ldMemVx (x : Reg)
  /-- `Fx65` LD Vx, [I] (R166). -/
  | ldVxMem (x : Reg)
  deriving DecidableEq, Repr

end Sys2Proof
end

