-- ==== Sys2Proof/WellFormed.lean ====
section
/-! DEFINITION. What makes an instruction or a program image well formed. The width of a register number, of a byte and
of an address is in its type; what is left to check is the row count of `Dxyn` and the size of an image. -/

namespace Sys2Proof

/-- The range checks on an instruction's operands: `n` is "an unsigned row count 0 to 15" (R92); every other operand
has exactly the values of its field. -/
def Instr.wf : Instr → Bool
  | .drwVxVyN _ _ n => decide (n ≤ 15)
  | .cls | .ret | .jpNnn _ | .callNnn _ | .seVxNn _ _ | .sneVxNn _ _ | .seVxVy _ _ | .ldVxNn _ _ | .addVxNn _ _
  | .ldVxVy _ _ | .orVxVy _ _ | .andVxVy _ _ | .xorVxVy _ _ | .addVxVy _ _ | .subVxVy _ _ | .shrVx _ _ | .subnVxVy _ _
  | .shlVx _ _ | .sneVxVy _ _ | .ldINnn _ | .jpV0Nnn _ | .rndVxNn _ _ | .skpVx _ | .sknpVx _ | .ldVxDt _ | .ldVxK _
  | .ldDtVx _ | .ldStVx _ | .addIVx _ | .ldFVx _ | .ldBVx _ | .ldMemVx _ | .ldVxMem _ => true

/-- A program image fits: "bytes.length ≤ 4096 − 0x200 (3584 bytes)" (R246). -/
def imageFits (bytes : List Byte) : Bool := decide (bytes.length ≤ maxImage)

end Sys2Proof
end

