-- ==== Sys2Proof/Decode.lean ====
section
/-! DEFINITION. From bytes to instructions and back (30_encoding.md rules R90 to R99). Decoding selects by the top
nibble and then, in the families 0, 5, 8, 9, E and F, by a secondary field (R93, R94). -/

namespace Sys2Proof

/-- Why bytes are no instruction. -/
inductive Reject where
  /-- The word matches none of the 34 patterns (R98): the machine runs it as a no-op. -/
  | unrecognized (w : Word)
  /-- Fewer than the two bytes every instruction has (R90). Never met by a fetch, which reads two. -/
  | truncated
  deriving DecidableEq, Repr

/-- `op`, bits 15 to 12 (R9). -/
def opField (w : Word) : BitVec 4 := w.extractLsb' 12 4

/-- `x`, bits 11 to 8 (R9). -/
def xField (w : Word) : Reg := w.extractLsb' 8 4

/-- `y`, bits 7 to 4 (R9). -/
def yField (w : Word) : Reg := w.extractLsb' 4 4

/-- `n`, bits 3 to 0 (R9). -/
def nField (w : Word) : BitVec 4 := w.extractLsb' 0 4

/-- `nn`, bits 7 to 0 (R9). -/
def nnField (w : Word) : Byte := w.extractLsb' 0 8

/-- `nnn`, bits 11 to 0 (R9). -/
def nnnField (w : Word) : Addr := w.extractLsb' 0 12

/-- Family 0x0, selected by the whole word (R94). -/
def decodeFamily0 (w : Word) : Except Reject Instr :=
  match w.toNat with
  | 0x00E0 => .ok .cls
  | 0x00EE => .ok .ret
  | _ => .error (.unrecognized w)

/-- Family 0x5: `n` must be 0 (R94, decision D13). -/
def decodeFamily5 (w : Word) : Except Reject Instr :=
  match (nField w).toNat with
  | 0x0 => .ok (.seVxVy (xField w) (yField w))
  | _ => .error (.unrecognized w)

/-- Family 0x8, selected by `n` (R94, R152). -/
def decodeFamily8 (w : Word) : Except Reject Instr :=
  match (nField w).toNat with
  | 0x0 => .ok (.ldVxVy (xField w) (yField w))
  | 0x1 => .ok (.orVxVy (xField w) (yField w))
  | 0x2 => .ok (.andVxVy (xField w) (yField w))
  | 0x3 => .ok (.xorVxVy (xField w) (yField w))
  | 0x4 => .ok (.addVxVy (xField w) (yField w))
  | 0x5 => .ok (.subVxVy (xField w) (yField w))
  | 0x6 => .ok (.shrVx (xField w) (yField w))
  | 0x7 => .ok (.subnVxVy (xField w) (yField w))
  | 0xE => .ok (.shlVx (xField w) (yField w))
  | _ => .error (.unrecognized w)

/-- Family 0x9: `n` must be 0 (R94, decision D13). -/
def decodeFamily9 (w : Word) : Except Reject Instr :=
  match (nField w).toNat with
  | 0x0 => .ok (.sneVxVy (xField w) (yField w))
  | _ => .error (.unrecognized w)

/-- Family 0xE, selected by `nn` (R94, R178). -/
def decodeFamilyE (w : Word) : Except Reject Instr :=
  match (nnField w).toNat with
  | 0x9E => .ok (.skpVx (xField w))
  | 0xA1 => .ok (.sknpVx (xField w))
  | _ => .error (.unrecognized w)

/-- Family 0xF, selected by `nn` (R94, R178). -/
def decodeFamilyF (w : Word) : Except Reject Instr :=
  match (nnField w).toNat with
  | 0x07 => .ok (.ldVxDt (xField w))
  | 0x0A => .ok (.ldVxK (xField w))
  | 0x15 => .ok (.ldDtVx (xField w))
  | 0x18 => .ok (.ldStVx (xField w))
  | 0x1E => .ok (.addIVx (xField w))
  | 0x29 => .ok (.ldFVx (xField w))
  | 0x33 => .ok (.ldBVx (xField w))
  | 0x55 => .ok (.ldMemVx (xField w))
  | 0x65 => .ok (.ldVxMem (xField w))
  | _ => .error (.unrecognized w)

/-- The instruction a fetched word is, or its rejection (R93, R94, R96, R98). -/
def decodeWord (w : Word) : Except Reject Instr :=
  match (opField w).toNat with
  | 0x0 => decodeFamily0 w
  | 0x1 => .ok (.jpNnn (nnnField w))
  | 0x2 => .ok (.callNnn (nnnField w))
  | 0x3 => .ok (.seVxNn (xField w) (nnField w))
  | 0x4 => .ok (.sneVxNn (xField w) (nnField w))
  | 0x5 => decodeFamily5 w
  | 0x6 => .ok (.ldVxNn (xField w) (nnField w))
  | 0x7 => .ok (.addVxNn (xField w) (nnField w))
  | 0x8 => decodeFamily8 w
  | 0x9 => decodeFamily9 w
  | 0xA => .ok (.ldINnn (nnnField w))
  | 0xB => .ok (.jpV0Nnn (nnnField w))
  | 0xC => .ok (.rndVxNn (xField w) (nnField w))
  | 0xD => .ok (.drwVxVyN (xField w) (yField w) (nField w).toNat)
  | 0xE => decodeFamilyE w
  | _ => decodeFamilyF w

/-- Two bytes as a word, the byte at the lower address first: big-endian (R61). -/
def wordOfBytes (hi lo : Byte) : Word := hi ++ lo

/-- Decode the instruction at the head of a byte sequence and give the bytes that follow it (R90: always two). -/
def decode : List Byte → Except Reject (Instr × List Byte)
  | hi :: lo :: rest => (decodeWord (wordOfBytes hi lo)).map fun i => (i, rest)
  | [_] | [] => .error .truncated

/-- The two bytes of a word as memory holds them, the most significant first (R61, R104). -/
def bytesOfWord (w : Word) : List Byte := [w.extractLsb' 8 8, w.extractLsb' 0 8]

/-- Format NNN (R91): `op`, `nnn`. -/
def wordNNN (op : BitVec 4) (nnn : Addr) : Word := op ++ nnn

/-- Format XNN (R91): `op`, `x`, `nn`; with a fixed `nn` also format XSS. -/
def wordXNN (op : BitVec 4) (x : Reg) (nn : Byte) : Word := op ++ (x ++ nn)

/-- Format XYN (R91): `op`, `x`, `y`, `n`; with a fixed `n` also format XYS. -/
def wordXYN (op : BitVec 4) (x y : Reg) (n : BitVec 4) : Word := op ++ (x ++ (y ++ n))

/-- The word of a well-formed instruction (R91, R96). -/
def encode : Instr → Word
  | .cls => 0x00E0#16
  | .ret => 0x00EE#16
  | .jpNnn nnn => wordNNN 0x1#4 nnn
  | .callNnn nnn => wordNNN 0x2#4 nnn
  | .seVxNn x nn => wordXNN 0x3#4 x nn
  | .sneVxNn x nn => wordXNN 0x4#4 x nn
  | .seVxVy x y => wordXYN 0x5#4 x y 0x0#4
  | .ldVxNn x nn => wordXNN 0x6#4 x nn
  | .addVxNn x nn => wordXNN 0x7#4 x nn
  | .ldVxVy x y => wordXYN 0x8#4 x y 0x0#4
  | .orVxVy x y => wordXYN 0x8#4 x y 0x1#4
  | .andVxVy x y => wordXYN 0x8#4 x y 0x2#4
  | .xorVxVy x y => wordXYN 0x8#4 x y 0x3#4
  | .addVxVy x y => wordXYN 0x8#4 x y 0x4#4
  | .subVxVy x y => wordXYN 0x8#4 x y 0x5#4
  | .shrVx x y => wordXYN 0x8#4 x y 0x6#4
  | .subnVxVy x y => wordXYN 0x8#4 x y 0x7#4
  | .shlVx x y => wordXYN 0x8#4 x y 0xE#4
  | .sneVxVy x y => wordXYN 0x9#4 x y 0x0#4
  | .ldINnn nnn => wordNNN 0xA#4 nnn
  | .jpV0Nnn nnn => wordNNN 0xB#4 nnn
  | .rndVxNn x nn => wordXNN 0xC#4 x nn
  | .drwVxVyN x y n => wordXYN 0xD#4 x y (BitVec.ofNat 4 n)
  | .skpVx x => wordXNN 0xE#4 x 0x9E#8
  | .sknpVx x => wordXNN 0xE#4 x 0xA1#8
  | .ldVxDt x => wordXNN 0xF#4 x 0x07#8
  | .ldVxK x => wordXNN 0xF#4 x 0x0A#8
  | .ldDtVx x => wordXNN 0xF#4 x 0x15#8
  | .ldStVx x => wordXNN 0xF#4 x 0x18#8
  | .addIVx x => wordXNN 0xF#4 x 0x1E#8
  | .ldFVx x => wordXNN 0xF#4 x 0x29#8
  | .ldBVx x => wordXNN 0xF#4 x 0x33#8
  | .ldMemVx x => wordXNN 0xF#4 x 0x55#8
  | .ldVxMem x => wordXNN 0xF#4 x 0x65#8

/-- The `mask` and `match` of an instruction's row of the opcode map (R96). -/
def rowOf : Instr → Word × Word
  | .cls => (0xFFFF, 0x00E0)
  | .ret => (0xFFFF, 0x00EE)
  | .jpNnn _ => (0xF000, 0x1000)
  | .callNnn _ => (0xF000, 0x2000)
  | .seVxNn _ _ => (0xF000, 0x3000)
  | .sneVxNn _ _ => (0xF000, 0x4000)
  | .seVxVy _ _ => (0xF00F, 0x5000)
  | .ldVxNn _ _ => (0xF000, 0x6000)
  | .addVxNn _ _ => (0xF000, 0x7000)
  | .ldVxVy _ _ => (0xF00F, 0x8000)
  | .orVxVy _ _ => (0xF00F, 0x8001)
  | .andVxVy _ _ => (0xF00F, 0x8002)
  | .xorVxVy _ _ => (0xF00F, 0x8003)
  | .addVxVy _ _ => (0xF00F, 0x8004)
  | .subVxVy _ _ => (0xF00F, 0x8005)
  | .shrVx _ _ => (0xF00F, 0x8006)
  | .subnVxVy _ _ => (0xF00F, 0x8007)
  | .shlVx _ _ => (0xF00F, 0x800E)
  | .sneVxVy _ _ => (0xF00F, 0x9000)
  | .ldINnn _ => (0xF000, 0xA000)
  | .jpV0Nnn _ => (0xF000, 0xB000)
  | .rndVxNn _ _ => (0xF000, 0xC000)
  | .drwVxVyN _ _ _ => (0xF000, 0xD000)
  | .skpVx _ => (0xF0FF, 0xE09E)
  | .sknpVx _ => (0xF0FF, 0xE0A1)
  | .ldVxDt _ => (0xF0FF, 0xF007)
  | .ldVxK _ => (0xF0FF, 0xF00A)
  | .ldDtVx _ => (0xF0FF, 0xF015)
  | .ldStVx _ => (0xF0FF, 0xF018)
  | .addIVx _ => (0xF0FF, 0xF01E)
  | .ldFVx _ => (0xF0FF, 0xF029)
  | .ldBVx _ => (0xF0FF, 0xF033)
  | .ldMemVx _ => (0xF0FF, 0xF055)
  | .ldVxMem _ => (0xF0FF, 0xF065)

/-- The masks and matches of the opcode map, in its order (R96). -/
def opcodeRows : List (Word × Word) :=
  [(0xFFFF, 0x00E0), (0xFFFF, 0x00EE), (0xF000, 0x1000), (0xF000, 0x2000), (0xF000, 0x3000), (0xF000, 0x4000),
    (0xF00F, 0x5000), (0xF000, 0x6000), (0xF000, 0x7000)] ++
  [(0xF00F, 0x8000), (0xF00F, 0x8001), (0xF00F, 0x8002), (0xF00F, 0x8003), (0xF00F, 0x8004), (0xF00F, 0x8005),
    (0xF00F, 0x8006), (0xF00F, 0x8007), (0xF00F, 0x800E)] ++
  [(0xF00F, 0x9000), (0xF000, 0xA000), (0xF000, 0xB000), (0xF000, 0xC000), (0xF000, 0xD000), (0xF0FF, 0xE09E),
    (0xF0FF, 0xE0A1)] ++
  [(0xF0FF, 0xF007), (0xF0FF, 0xF00A), (0xF0FF, 0xF015), (0xF0FF, 0xF018), (0xF0FF, 0xF01E), (0xF0FF, 0xF029),
    (0xF0FF, 0xF033), (0xF0FF, 0xF055), (0xF0FF, 0xF065)]

/-- The instruction word whose bits are `w`, of which the table numbers the low `nbits`; bits above them are 0. Every
row of the table is one 16-bit word (R90). -/
def tableWord (nbits w : Nat) : Word := BitVec.ofNat 16 (w % 2 ^ nbits)

/-- What the decoder reads from a word numbered as spec/opcode_table.json numbers it, laid out in memory's byte order
(R61). -/
def decodeTableWord (nbits w : Nat) : Option Instr :=
  match decode (bytesOfWord (tableWord nbits w)) with
  | .ok (i, _) => some i
  | .error _ => none

end Sys2Proof
end

