-- ==== Sys2Proof/Machine/State.lean ====
section
/-! DEFINITION. The machine's state as plain data (10_state.md rule R20), its reset value (R38), and the reasons a step
can stop. -/

namespace Sys2Proof.Machine

/-- Main memory (R21) as the list of the cells that differ from what they hold after reset, in one canonical form:
addresses strictly rising and below 4096, no entry equal to the cell's reset content (`Memory.wf` in Ops.lean). -/
abbrev Memory := List Host.Cell

/-- The framebuffer: 2048 one-bit cells, cell x + 64·y being pixel (x, y) (R32). -/
abbrev Framebuffer := Vector Bool 2048

/-- The causes of FAULT (60_exceptions.md rule R200); `FaultCause.code` in Ops.lean numbers them. -/
inductive FaultCause where
  /-- The reset value: no fault. -/
  | none
  /-- A step with `pc` > 0xFFE. -/
  | fetchRange
  /-- `Dxyn`, `Fx33`, `Fx55`, `Fx65` reaching past 0xFFF. -/
  | memRange
  /-- `2nnn` with SP = 16. -/
  | stackOverflow
  /-- `00EE` with SP = 0. -/
  | stackUnderflow
  /-- `Ex9E`, `ExA1` with Vx > 0x0F. -/
  | keyRange
  deriving DecidableEq, Repr

/-- The FAULT register: a valid bit and a cause (R36). -/
structure FaultReg where
  valid : Bool
  cause : FaultCause
  deriving DecidableEq, Repr

/-- The complete state (R20). Every item has one home here; VF is register 15 of `v` (R23). -/
structure State where
  /-- `MEM` (R21). -/
  mem : Memory
  /-- `V[0..15]` (R22). -/
  v : Vector Byte 16
  /-- `pc` (R24). -/
  pc : Word
  /-- `I` (R25). -/
  i : Word
  /-- `STACK[0..15]` (R27). -/
  stack : Vector Word 16
  /-- `SP`, 0 to 16: the number of active calls (R28). -/
  sp : Fin 17
  /-- `DT` (R29). -/
  dt : Byte
  /-- `ST` (R30). -/
  st : Byte
  /-- `KEY[0..15]`, true when pressed (R31). -/
  key : Vector Bool 16
  /-- `FB[0..2047]` (R32). -/
  fb : Framebuffer
  /-- `REDRAW` (R33). -/
  redraw : Bool
  /-- `FAULT` (R36). -/
  fault : FaultReg
  /-- `RESET_DONE` (R35). -/
  resetDone : Bool
  /-- The model's own field, no state of the spec: how many bytes have been drawn from `rnd_in`, the argument of the
  free value `Config.rndIn`. DESIGN CHOICE (log entry 1). -/
  draws : Nat
  deriving DecidableEq, Repr

/-- The state right after the first reset: the table of R38. Memory lists nothing, so every cell reads as its reset
content. `draws` is no state of the spec and no statement rests on its value here (log entry 1). -/
def State.reset : State where
  mem := []
  v := Vector.replicate 16 0
  pc := 0x0200
  i := 0
  stack := Vector.replicate 16 0
  sp := 0
  dt := 0
  st := 0
  key := Vector.replicate 16 false
  fb := Vector.replicate 2048 false
  redraw := false
  fault := { valid := false, cause := .none }
  resetDone := true
  draws := 0

/-- Reasons for the interface's `.fault` outcome: there are none. Every trouble the spec names is a fault whose entry it
describes (R203), so it is a next state with the FAULT register written (log entry 5). Nobody raises this type. -/
inductive Fault where
  deriving DecidableEq, Repr

/-- Reasons the model gives an operation no meaning. -/
inductive Refusal where
  /-- An instruction without a meaning: only an arm of `exec` could raise it, and none does. Safe: the model stops. -/
  | notModelled (mnemonic : String)
  /-- Raised by `step` and by every host operation but reset when reset has never run (R35, decision D19: "every
  operation other than reset is refused"). Safe: the model stops where the spec gives no state. -/
  | beforeReset
  deriving DecidableEq, Repr

/-- What a step or a host operation answers. -/
abbrev Result := Host.Outcome State Fault Refusal

end Sys2Proof.Machine
end

