-- ==== Sys2Proof/Machine/Ops.lean ====
section
/-! DEFINITION. The named operations over memory, registers, stack, timers and the FAULT register, and the frame of one
step around an instruction. -/

namespace Sys2Proof.Machine

/-! ## Main memory (20_memory.md) -/

/-- `FONT[0..79]`, glyph d at bytes 5·d to 5·d + 4 (R242). PRESUMED: the spec supplies the values of R243 from general
knowledge, since its source prints none (decision D16, log entry 3). -/
def fontTable : List Byte :=
  [0xF0, 0x90, 0x90, 0x90, 0xF0] ++ [0x20, 0x60, 0x20, 0x20, 0x70] ++
  [0xF0, 0x10, 0xF0, 0x80, 0xF0] ++ [0xF0, 0x10, 0xF0, 0x10, 0xF0] ++
  [0x90, 0x90, 0xF0, 0x10, 0x10] ++ [0xF0, 0x80, 0xF0, 0x10, 0xF0] ++
  [0xF0, 0x80, 0xF0, 0x90, 0xF0] ++ [0xF0, 0x10, 0x20, 0x40, 0x40] ++
  [0xF0, 0x90, 0xF0, 0x90, 0xF0] ++ [0xF0, 0x90, 0xF0, 0x10, 0xF0] ++
  [0xF0, 0x90, 0xF0, 0x90, 0x90] ++ [0xE0, 0x90, 0xE0, 0x90, 0xE0] ++
  [0xF0, 0x80, 0x80, 0x80, 0xF0] ++ [0xE0, 0x90, 0x90, 0x90, 0xE0] ++
  [0xF0, 0x80, 0xF0, 0x80, 0xF0] ++ [0xF0, 0x80, 0xF0, 0x80, 0x80]

/-- What a cell holds after reset, hence what an unlisted address reads as: the font at 0x000 to 0x04F, zero elsewhere
(R38, R240). -/
def resetByte (a : Nat) : Byte := fontTable.getD a 0

/-- Read one cell. Every access is range-checked before it gets here (R64), so an address past 0xFFF is never read. -/
def Memory.read : Memory → Nat → Byte
  | [], a => resetByte a
  | (k, b) :: rest, a => if k = a then b else Memory.read rest a

/-- Put byte `b` at `a` in the canonical form: the entry goes where its address belongs, and a byte equal to the cell's
reset content is not listed. -/
def Memory.store : Memory → Nat → Byte → Memory
  | [], a, b => if b = resetByte a then [] else [(a, b)]
  | (k, c) :: rest, a, b =>
    if a < k then (if b = resetByte a then (k, c) :: rest else (a, b) :: (k, c) :: rest)
    else if a = k then (if b = resetByte a then rest else (a, b) :: rest)
    else (k, c) :: Memory.store rest a b

/-- Write one cell: "a write changes only the addressed cell" (R63). There is no cell past 0xFFF to write; the range
check of R64 keeps every access away from there. -/
def Memory.write (m : Memory) (a : Nat) (b : Byte) : Memory := if a < memSize then Memory.store m a b else m

/-- Write bytes at ascending addresses from `a` (R63). -/
def Memory.writeBlock : Memory → Nat → List Byte → Memory
  | m, _, [] => m
  | m, a, b :: bs => Memory.writeBlock (Memory.write m a b) (a + 1) bs

/-- Read `n` bytes at ascending addresses from `a` (R63). -/
def Memory.readBlock (m : Memory) (a : Nat) : Nat → List Byte
  | 0 => []
  | n + 1 => Memory.read m a :: Memory.readBlock m (a + 1) n

/-- The canonical form from address `lo` upward. -/
def Memory.wfFrom : Nat → Memory → Bool
  | _, [] => true
  | lo, (a, b) :: rest => decide (lo ≤ a) && decide (a < memSize) && (b != resetByte a) && Memory.wfFrom (a + 1) rest

/-- The canonical form: addresses strictly rising and below 4096, no entry equal to its cell's reset content. -/
def Memory.wf (m : Memory) : Bool := Memory.wfFrom 0 m

/-- Whether the bytes `base` to `base + count - 1` all exist, the sum taken without wrap; an empty range always does
(R64). -/
def rangeOk (base : Word) (count : Nat) : Bool := decide (count = 0 ∨ base.toNat + count ≤ memSize)

/-! ## General registers and flag (10_state.md) -/

/-- VF, register 15 (R23). -/
def vf : Reg := 0xF

/-- `V[r]` (R22). -/
def State.getV (s : State) (r : Reg) : Byte := s.v[r.toNat]'r.isLt

/-- `V[r] <- b` (R22). -/
def State.setV (s : State) (r : Reg) (b : Byte) : State := { s with v := s.v.set r.toNat b r.isLt }

/-- The bytes `bs` into the registers from number `k` upward, ascending (R166). -/
def putRegs : Vector Byte 16 → Nat → List Byte → Vector Byte 16
  | v, _, [] => v
  | v, k, b :: bs => putRegs (v.setIfInBounds k b) (k + 1) bs

/-- V0 to Vx, ascending (R165). -/
def State.regsUpTo (s : State) (x : Reg) : List Byte := s.v.toList.take (x.toNat + 1)

/-! ## Program counter (10_state.md R24, 41_skips.md R130) -/

/-- The fetch's increment: `pc <- (pc + 2) mod 2^16` (R24, R100, decision D22). -/
def State.advance (s : State) : State := { s with pc := s.pc + 2 }

/-- `pc <- target`. -/
def State.jump (s : State) (target : Word) : State := { s with pc := target }

/-- The skip: two more when the condition holds (R130). -/
def State.skipIf (s : State) (cond : Bool) : State := if cond then { s with pc := s.pc + 2 } else s

/-! ## Call stack (10_state.md R27, R28) -/

/-- `STACK[SP] <- w; SP <- SP + 1`, or nothing to push to when SP is 16 (R122). -/
def State.push? (s : State) (w : Word) : Option State :=
  if h : s.sp.val < stackDepth then
    some { s with stack := s.stack.set s.sp.val w h, sp := ⟨s.sp.val + 1, Nat.succ_lt_succ h⟩ }
  else none

/-- `SP <- SP - 1` and the entry `STACK[SP]`, which keeps its value; nothing to pop when SP is 0 (R120). -/
def State.pop? (s : State) : Option (Word × State) :=
  match s.sp with
  | ⟨0, _⟩ => none
  | ⟨k + 1, h⟩ => some (s.stack[k]'(Nat.lt_of_succ_lt_succ h), { s with sp := ⟨k, Nat.lt_of_succ_lt h⟩ })

/-! ## Keypad latch (10_state.md R31) -/

/-- `KEY[k]`. Key numbers are 0 to 15; the instructions check the range first (R175, R176). -/
def State.keyDown (s : State) (k : Nat) : Bool := s.key[k]?.getD false

/-- The least pressed key, if any: the scan goes from key 0 upward (R177, decision D20). -/
def State.firstKey (s : State) : Option Nat := (List.range 16).find? s.keyDown

/-! ## Framebuffer (45_display.md) -/

/-- The cell a sprite's row `r`, column `c` lands on when the sprite is drawn at (x0, y0): wrapped modulo 64 and 32 per
pixel (R182). -/
def spriteCell (x0 y0 r c : Nat) : Fin 2048 :=
  ⟨(x0 + c) % 64 + 64 * ((y0 + r) % 32), by
    have hx := Nat.mod_lt (x0 + c) (show 0 < 64 by decide)
    have hy := Nat.mod_lt (y0 + r) (show 0 < 32 by decide)
    omega⟩

/-- Toggle one cell; the flag records a cell that goes from 1 to 0 (R182). -/
def togglePixel (d : Framebuffer × Bool) (k : Fin 2048) : Framebuffer × Bool := (d.1.set k.val (!d.1[k]) k.isLt, d.2 || d.1[k])

/-- One row of a sprite, columns left to right, bit 7 of the byte leftmost (R182, R184). -/
def drawRow (x0 y0 r : Nat) (b : Byte) (d : Framebuffer × Bool) : Framebuffer × Bool :=
  (List.range 8).foldl (fun d c => if b.getLsbD (7 - c) then togglePixel d (spriteCell x0 y0 r c) else d) d

/-- `n` rows, top to bottom, row `r` read from memory at `base + r` (R182). -/
def drawRows (m : Memory) (base x0 y0 n : Nat) (d : Framebuffer × Bool) : Framebuffer × Bool :=
  (List.range n).foldl (fun d r => drawRow x0 y0 r (Memory.read m (base + r)) d) d

/-! ## Timers (60_exceptions.md R211) -/

/-- "decremented toward zero ... never wrap below zero" (R29, R211). -/
def countDown (b : Byte) : Byte := if b = 0 then 0 else b - 1

/-- `tick_timers()` (R211). -/
def State.tickTimers (s : State) : State := { s with dt := countDown s.dt, st := countDown s.st }

/-! ## Random byte (44_random_timers_keypad.md R171) -/

/-- Sample `rnd_in` once: the byte, a free value, and the state in which that draw is used up (log entry 1). -/
def State.drawRandom (s : State) : Byte × State := (Config.rndIn s.draws, { s with draws := s.draws + 1 })

/-! ## Taking a fault, and the only way out of one (60_exceptions.md R203 to R205) -/

/-- The numbers of the causes (R200). -/
def FaultCause.code : FaultCause → BitVec 3
  | .none => 0
  | .fetchRange => 1
  | .memRange => 2
  | .stackOverflow => 3
  | .stackUnderflow => 4
  | .keyRange => 5

/-- Fault entry, applied to the state BEFORE the step: FAULT is written and nothing else, so `pc` stays at the faulting
instruction (R203). -/
def State.raiseFault (s : State) (c : FaultCause) : State := { s with fault := { valid := true, cause := c } }

/-- `reset()` from any state (R240, R241, R205): all state of the machine to its reset value. Only the model's counter of
random draws goes on, so that the bytes drawn after a later reset are free of those drawn before it (log entry 1). -/
def State.resetAgain (s : State) : State := { State.reset with draws := s.draws }

/-- A data access of `count` bytes at `I`: fault MEM_RANGE when one of them does not exist, tested before any byte moves
(R64); else the effect. -/
def State.withRange (s : State) (count : Nat) (effect : State) : Result :=
  if rangeOk s.i count then .next effect else .next (s.raiseFault .memRange)

/-- A keypad access by Vx: fault KEY_RANGE when there is no such key (R175, R176); else the effect. -/
def State.withKeyRange (s : State) (k : Nat) (effect : State) : Result :=
  if k ≤ 0xF then .next effect else .next (s.raiseFault .keyRange)

/-! ## The step around an instruction (30_encoding.md R98, R100) -/

/-- `MemRead(pc, 2)`: big-endian (R61). -/
def State.fetchWord (s : State) : Word :=
  wordOfBytes (Memory.read s.mem s.pc.toNat) (Memory.read s.mem (s.pc.toNat + 1))

/-- `pc` and `pc + 1` exist (R64). -/
def State.canFetch (s : State) : Bool := decide (s.pc.toNat ≤ 0xFFE)

/-- An unrecognized word: "no-op; PC already advanced" (R98). -/
def execUnrecognized (s : State) : Result := .next s.advance

/-- The end of a step (R100): the timers tick, but not in a step that faulted (R203, R211). -/
def endOfStep : Result → Result
  | .next t => .next (if t.fault.valid then t else t.tickTimers)
  | .fault r => .fault r
  | .refused r => .refused r

/-- The step of R100 around `run`, which fetches, decodes and executes: refused before the first reset (R35), nothing at
all while FAULT is valid (R204), FETCH_RANGE when `pc` cannot be fetched from (R64, R206). -/
def State.stepWith (s : State) (run : State → Result) : Result :=
  if s.resetDone then
    if s.fault.valid then .next s
    else if s.canFetch then endOfStep (run s)
    else .next (s.raiseFault .fetchRange)
  else .refused .beforeReset

/-- Store an instruction's bytes where the next fetch reads them. -/
def State.placeAtPc (s : State) (bytes : List Byte) : State := { s with mem := Memory.writeBlock s.mem s.pc.toNat bytes }

end Sys2Proof.Machine
end

