-- ==== Sys2Proof/Machine/Flags.lean ====
section
/-! DEFINITION. The flag computations: VF is written with 0x00 or 0x01, after the operands are read and after the result
is written (10_state.md rules R23, R40; 42_register_alu.md rule R140). -/

namespace Sys2Proof.Machine

/-- A flag as the byte written to all 8 bits of VF (R140). -/
def flagByte (f : Bool) : Byte := if f then 1 else 0

/-- Carry of `8xy4`: the unsigned sum exceeds 255 (R147). -/
def carryOut (a b : Byte) : Bool := decide (a.toNat + b.toNat > 255)

/-- No borrow of `a - b`: a ≥ b, equality included (R148, R149). -/
def noBorrow (a b : Byte) : Bool := decide (a.toNat ≥ b.toNat)

/-- The bit a right shift by one shifts out (R150). -/
def lowBit (a : Byte) : Bool := a.getLsbD 0

/-- The bit a left shift by one shifts out (R151). -/
def highBit (a : Byte) : Bool := a.getLsbD 7

/-- Result to Vx, then flag to VF last: with x = 0xF the flag is what remains (R23, decision D3). -/
def State.setResultAndFlag (s : State) (x : Reg) (result : Byte) (flag : Bool) : State :=
  (s.setV x result).setV vf (flagByte flag)

end Sys2Proof.Machine
end

