-- ==== Sys2Proof/Machine/Operands.lean ====
section
/-! DEFINITION. How an instruction's fields become operands (30_encoding.md rule R92). No immediate is scaled or
sign-extended. -/

namespace Sys2Proof.Machine

/-- `nnn`, zero-extended to 16 bits (R92). -/
def addrOperand (nnn : Addr) : Word := nnn.setWidth 16

/-- A byte, zero-extended to 16 bits (R10). -/
def byteOperand (b : Byte) : Word := b.setWidth 16

/-- The target of `Bnnn`: V0 plus nnn, not reduced to 12 bits (R123). -/
def State.offsetTarget (s : State) (nnn : Addr) : Word := byteOperand (s.getV 0) + addrOperand nnn

/-- The key number of `Ex9E` and `ExA1`: the whole of Vx (R175). -/
def State.keyOperand (s : State) (x : Reg) : Nat := (s.getV x).toNat

/-- A sprite's column or row: the whole of Vx or Vy (R182). -/
def State.coordinate (s : State) (r : Reg) : Nat := (s.getV r).toNat

/-- The address of the glyph of a digit: five bytes each, the whole byte used (R163, decision D23). -/
def glyphAddress (b : Byte) : Word := byteOperand b * 5

/-- Hundreds, tens and units, a byte each (R164). -/
def decimalDigits (b : Byte) : List Byte :=
  [BitVec.ofNat 8 (b.toNat / 100), BitVec.ofNat 8 (b.toNat / 10 % 10), BitVec.ofNat 8 (b.toNat % 10)]

/-- The bytes `Fx55` and `Fx65` move: x + 1 of them (R165, R166). -/
def blockLength (x : Reg) : Nat := x.toNat + 1

/-- The first memory address of a data access: `I`, with no wrap when offsets are added to it (R67, R160). -/
def State.baseAddress (s : State) : Nat := s.i.toNat

end Sys2Proof.Machine
end

