-- ==== Sys2Proof/Machine/Alu.lean ====
section
/-! DEFINITION. Register loads, logic, add and subtract, shifts (42_register_alu.md). -/

namespace Sys2Proof.Machine

/-- `6xnn` LD Vx, nn (R141). -/
def execLdVxNn (x : Reg) (nn : Byte) (s : State) : Result := .next (s.advance.setV x nn)

/-- `7xnn` ADD Vx, nn: wraps, no flag (R142). -/
def execAddVxNn (x : Reg) (nn : Byte) (s : State) : Result := .next (s.advance.setV x (s.getV x + nn))

/-- `8xy0` LD Vx, Vy (R143). -/
def execLdVxVy (x y : Reg) (s : State) : Result := .next (s.advance.setV x (s.getV y))

/-- `8xy1` OR Vx, Vy: VF unchanged (R144). -/
def execOrVxVy (x y : Reg) (s : State) : Result := .next (s.advance.setV x (s.getV x ||| s.getV y))

/-- `8xy2` AND Vx, Vy: VF unchanged (R145). -/
def execAndVxVy (x y : Reg) (s : State) : Result := .next (s.advance.setV x (s.getV x &&& s.getV y))

/-- `8xy3` XOR Vx, Vy: VF unchanged (R146). -/
def execXorVxVy (x y : Reg) (s : State) : Result := .next (s.advance.setV x (s.getV x ^^^ s.getV y))

/-- `8xy4` ADD Vx, Vy (R147). -/
def execAddVxVy (x y : Reg) (s : State) : Result :=
  .next (s.advance.setResultAndFlag x (s.getV x + s.getV y) (carryOut (s.getV x) (s.getV y)))

/-- `8xy5` SUB Vx, Vy (R148). -/
def execSubVxVy (x y : Reg) (s : State) : Result :=
  .next (s.advance.setResultAndFlag x (s.getV x - s.getV y) (noBorrow (s.getV x) (s.getV y)))

/-- `8xy7` SUBN Vx, Vy (R149). -/
def execSubnVxVy (x y : Reg) (s : State) : Result :=
  .next (s.advance.setResultAndFlag x (s.getV y - s.getV x) (noBorrow (s.getV y) (s.getV x)))

/-- `8xy6` SHR Vx: one bit, `y` not read (R150, decision D2). -/
def execShrVx (x _y : Reg) (s : State) : Result :=
  .next (s.advance.setResultAndFlag x (s.getV x >>> 1) (lowBit (s.getV x)))

/-- `8xyE` SHL Vx: one bit, `y` not read (R151, decision D2). -/
def execShlVx (x _y : Reg) (s : State) : Result :=
  .next (s.advance.setResultAndFlag x (s.getV x <<< 1) (highBit (s.getV x)))

end Sys2Proof.Machine
end

