-- ==== Sys2Proof/Machine/Control.lean ====
section
/-! DEFINITION. Control transfer and skips: RET, JP, CALL, JP V0 (40_control_transfer.md), SE, SNE (41_skips.md). A
meaning starts from the state before the step; `advance` is the fetch's increment of pc. -/

namespace Sys2Proof.Machine

/-- `00EE` RET (R120). -/
def execRet (s : State) : Result :=
  match s.pop? with
  | some (target, t) => .next (t.jump target)
  | none => .next (s.raiseFault .stackUnderflow)

/-- `1nnn` JP nnn (R121). -/
def execJpNnn (nnn : Addr) (s : State) : Result := .next (s.jump (addrOperand nnn))

/-- `2nnn` CALL nnn: the incremented pc is pushed (R122). -/
def execCallNnn (nnn : Addr) (s : State) : Result :=
  match s.push? s.advance.pc with
  | some t => .next (t.jump (addrOperand nnn))
  | none => .next (s.raiseFault .stackOverflow)

/-- `Bnnn` JP V0, nnn (R123). -/
def execJpV0Nnn (nnn : Addr) (s : State) : Result := .next (s.jump (s.offsetTarget nnn))

/-- `3xnn` SE Vx, nn (R131). -/
def execSeVxNn (x : Reg) (nn : Byte) (s : State) : Result := .next (s.advance.skipIf (s.getV x == nn))

/-- `4xnn` SNE Vx, nn (R132). -/
def execSneVxNn (x : Reg) (nn : Byte) (s : State) : Result := .next (s.advance.skipIf (s.getV x != nn))

/-- `5xy0` SE Vx, Vy (R133). -/
def execSeVxVy (x y : Reg) (s : State) : Result := .next (s.advance.skipIf (s.getV x == s.getV y))

/-- `9xy0` SNE Vx, Vy (R134). -/
def execSneVxVy (x y : Reg) (s : State) : Result := .next (s.advance.skipIf (s.getV x != s.getV y))

end Sys2Proof.Machine
end

