-- ==== Sys2Proof/Machine/Devices.lean ====
section
/-! DEFINITION. Random byte, timers and keypad (44_random_timers_keypad.md). -/

namespace Sys2Proof.Machine

/-- `Cxnn` RND Vx, nn: the byte is a free value, sampled once (R171). -/
def execRndVxNn (x : Reg) (nn : Byte) (s : State) : Result :=
  .next (s.drawRandom.2.advance.setV x (s.drawRandom.1 &&& nn))

/-- `Fx07` LD Vx, DT: the value before this step's decrement (R172). -/
def execLdVxDt (x : Reg) (s : State) : Result := .next (s.advance.setV x s.dt)

/-- `Fx15` LD DT, Vx (R173). -/
def execLdDtVx (x : Reg) (s : State) : Result := .next { s.advance with dt := s.getV x }

/-- `Fx18` LD ST, Vx (R174). -/
def execLdStVx (x : Reg) (s : State) : Result := .next { s.advance with st := s.getV x }

/-- `Ex9E` SKP Vx (R175). -/
def execSkpVx (x : Reg) (s : State) : Result :=
  s.withKeyRange (s.keyOperand x) (s.advance.skipIf (s.keyDown (s.keyOperand x)))

/-- `ExA1` SKNP Vx (R176). -/
def execSknpVx (x : Reg) (s : State) : Result :=
  s.withKeyRange (s.keyOperand x) (s.advance.skipIf (!s.keyDown (s.keyOperand x)))

/-- `Fx0A` LD Vx, K: the lowest pressed key, or pc back to this instruction (R177). -/
def execLdVxK (x : Reg) (s : State) : Result :=
  match s.firstKey with
  | some k => .next (s.advance.setV x (BitVec.ofNat 8 k))
  | none => .next (s.advance.jump (s.advance.pc - 2))

end Sys2Proof.Machine
end

