-- ==== Sys2Proof/Machine/Display.lean ====
section
/-! DEFINITION. The framebuffer writer (45_display.md). -/

namespace Sys2Proof.Machine

/-- `00E0` CLS: REDRAW is set whether or not a pixel was lit (R181, 90_conflicts.md C1). -/
def execCls (s : State) : Result := .next { s.advance with fb := Vector.replicate 2048 false, redraw := true }

/-- The framebuffer after the draw and whether a pixel went from 1 to 0 (R182). -/
def State.drawn (s : State) (x y : Reg) (n : Nat) : Framebuffer × Bool :=
  drawRows s.mem s.baseAddress (s.coordinate x) (s.coordinate y) n (s.fb, false)

/-- `Dxyn` DRW Vx, Vy, n: VF is written last and always, REDRAW always (R182, R183). -/
def execDrwVxVyN (x y : Reg) (n : Nat) (s : State) : Result :=
  s.withRange n ({ s.advance with fb := (s.drawn x y n).1, redraw := true }.setV vf (flagByte (s.drawn x y n).2))

end Sys2Proof.Machine
end

