-- ==== Sys2Proof/Machine/IndexMemory.lean ====
section
/-! DEFINITION. The index register and the memory instructions (43_index_memory.md). -/

namespace Sys2Proof.Machine

/-- `Annn` LD I, nnn (R161). -/
def execLdINnn (nnn : Addr) (s : State) : Result := .next { s.advance with i := addrOperand nnn }

/-- `Fx1E` ADD I, Vx: 16 bits kept, no flag (R162, decision D11). -/
def execAddIVx (x : Reg) (s : State) : Result := .next { s.advance with i := s.i + byteOperand (s.getV x) }

/-- `Fx29` LD F, Vx (R163). -/
def execLdFVx (x : Reg) (s : State) : Result := .next { s.advance with i := glyphAddress (s.getV x) }

/-- `Fx33` LD B, Vx (R164). -/
def execLdBVx (x : Reg) (s : State) : Result :=
  s.withRange 3 { s.advance with mem := Memory.writeBlock s.mem s.baseAddress (decimalDigits (s.getV x)) }

/-- `Fx55` LD [I], Vx (R165). -/
def execLdMemVx (x : Reg) (s : State) : Result :=
  s.withRange (blockLength x) { s.advance with mem := Memory.writeBlock s.mem s.baseAddress (s.regsUpTo x) }

/-- `Fx65` LD Vx, [I] (R166). -/
def execLdVxMem (x : Reg) (s : State) : Result :=
  s.withRange (blockLength x) { s.advance with v := putRegs s.v 0 (Memory.readBlock s.mem s.baseAddress (blockLength x)) }

end Sys2Proof.Machine
end

