-- ==== Sys2Proof/Machine/Step.lean ====
section
/-! DEFINITION. One step (30_encoding.md rule R100). Everything it is made of stands in Ops.lean, Decode.lean and the
meanings. -/

namespace Sys2Proof.Machine

/-- Fetch, decode and execute (R100): the instruction the word at pc is, or the no-op of an unrecognized word (R98). -/
def runFetched (s : State) : Result :=
  match decodeWord s.fetchWord with
  | .ok i => exec i s
  | .error _ => execUnrecognized s

/-- `step()` (R100). -/
def step (s : State) : Host.Outcome State Fault Refusal := s.stepWith runFetched

/-- The word numbered as spec/opcode_table.json numbers it, stored big-endian at pc, where the next step fetches (R61).
Only memory changes: after reset the fetch needs nothing else. It stands for the host's load (log entry 2). -/
def State.withFetchWord (s : State) (nbits w : Nat) : State := s.placeAtPc (bytesOfWord (tableWord nbits w))

end Sys2Proof.Machine
end

