-- ==== Sys2Proof/Machine/HostOps.lean ====
section
/-! DEFINITION. The host's operations (60_exceptions.md rule R214; 70_reset_and_hazards.md rules R240 to R247). Each is
indivisible and acts between two steps (20_memory.md rule R68). -/

namespace Sys2Proof.Machine

/-- What the host can do to the machine (R214); the operations that only read are the functions below. -/
inductive HostOp where
  /-- `reset()` (R240). -/
  | reset
  /-- `load(bytes)` (R245). -/
  | load (bytes : List Byte)
  /-- `step()` (R100). -/
  | step
  /-- `setKeys(state[16])` (R216). -/
  | setKeys (keys : Vector Bool 16)
  /-- `setDelay(byte)` (R217). -/
  | setDelay (b : Byte)
  /-- `setSound(byte)` (R217). -/
  | setSound (b : Byte)
  /-- `clearRedraw()` (R221). -/
  | clearRedraw
  deriving DecidableEq, Repr

/-- What `load` reports to the host (R245, R246). -/
inductive LoadResult where
  /-- Every byte was copied. -/
  | success
  /-- The image is longer than 3584 bytes; no cell was written. -/
  | imageTooLarge
  deriving DecidableEq, Repr

/-- All operations but `reset` require that reset has run (R214, R35). -/
def State.afterReset {α : Type} (s : State) (a : α) : Host.Outcome α Fault Refusal :=
  if s.resetDone then .next a else .refused .beforeReset

/-- `reset()`: "zero-argument, always succeeds" (R240). -/
def hostReset (s : State) : Result := .next s.resetAgain

/-- The state `load` leaves: the image at 0x200 upward, or nothing changed when it does not fit (R245, R246). -/
def State.loaded (s : State) (bytes : List Byte) : State :=
  if imageFits bytes then { s with mem := Memory.writeBlock s.mem progBase bytes } else s

/-- What `load` reports (R245, R246). -/
def loadResult (bytes : List Byte) : LoadResult := if imageFits bytes then .success else .imageTooLarge

/-- `load(bytes)` (R245 to R247). -/
def hostLoad (bytes : List Byte) (s : State) : Host.Outcome (State × LoadResult) Fault Refusal :=
  s.afterReset (s.loaded bytes, loadResult bytes)

/-- `setKeys(state)`: the whole latch at once (R216). -/
def hostSetKeys (keys : Vector Bool 16) (s : State) : Result := s.afterReset { s with key := keys }

/-- `setDelay(byte)` (R217). -/
def hostSetDelay (b : Byte) (s : State) : Result := s.afterReset { s with dt := b }

/-- `setSound(byte)` (R217). -/
def hostSetSound (b : Byte) (s : State) : Result := s.afterReset { s with st := b }

/-- `clearRedraw()` (R221). -/
def hostClearRedraw (s : State) : Result := s.afterReset { s with redraw := false }

/-- `getDelay()`, the output `dt_out` (R217). -/
def hostGetDelay (s : State) : Host.Outcome Byte Fault Refusal := s.afterReset s.dt

/-- The output `st_out` (R218). -/
def hostSound (s : State) : Host.Outcome Byte Fault Refusal := s.afterReset s.st

/-- `framebuffer()`: element k is FB[k] (R220). -/
def hostFramebuffer (s : State) : Host.Outcome Framebuffer Fault Refusal := s.afterReset s.fb

/-- `redrawPending()` (R221). -/
def hostRedrawPending (s : State) : Host.Outcome Bool Fault Refusal := s.afterReset s.redraw

/-- The outputs `fault_out` and `fcause_out` (R219). -/
def hostFaultStatus (s : State) : Host.Outcome (Bool × BitVec 3) Fault Refusal :=
  s.afterReset (s.fault.valid, s.fault.cause.code)

/-- One operation of the host on the machine, `step` among them (R214). -/
def hostDo (op : HostOp) (s : State) : Result :=
  match op with
  | .reset => hostReset s
  | .load bytes => s.afterReset (s.loaded bytes)
  | .step => Sys2Proof.Machine.step s
  | .setKeys keys => hostSetKeys keys s
  | .setDelay b => hostSetDelay b s
  | .setSound b => hostSetSound b s
  | .clearRedraw => hostClearRedraw s

end Sys2Proof.Machine
end

