-- ==== Sys2Proof/Safety.lean ====
section
/-! DEFINITION. The terms claims are made in: what of the state may differ, when an instruction faults, the invariant of
a run, which states a run reaches, and what a safe state is. -/

namespace Sys2Proof.Machine

/-- The items of R20, by name, and the model's own counter of draws. -/
inductive Part where
  | mem | v | pc | i | stack | sp | dt | st | key | fb | redraw | fault | resetDone | draws
  deriving DecidableEq, Repr

/-- Two states hold the same in one item. -/
def State.agreeOn (s t : State) : Part → Prop
  | .mem => t.mem = s.mem
  | .v => t.v = s.v
  | .pc => t.pc = s.pc
  | .i => t.i = s.i
  | .stack => t.stack = s.stack
  | .sp => t.sp = s.sp
  | .dt => t.dt = s.dt
  | .st => t.st = s.st
  | .key => t.key = s.key
  | .fb => t.fb = s.fb
  | .redraw => t.redraw = s.redraw
  | .fault => t.fault = s.fault
  | .resetDone => t.resetDone = s.resetDone
  | .draws => t.draws = s.draws

/-- `t` differs from `s` at most in the items listed. -/
def State.sameBut (s t : State) (changed : List Part) : Prop := ∀ p, p ∉ changed → s.agreeOn t p

/-- Every general register but those listed holds in `t` what it holds in `s`. -/
def State.regsSameBut (s t : State) (changed : List Reg) : Prop := ∀ r, r ∉ changed → t.getV r = s.getV r

/-- Every byte of memory that is not among the `len` bytes from address `a` reads in `t` as in `s`. -/
def State.bytesSameOutside (s t : State) (a len : Nat) : Prop :=
  ∀ b, ¬ (a ≤ b ∧ b < a + len) → Memory.read t.mem b = Memory.read s.mem b

/-- The items an instruction may change, as the access matrix of R39 lists them; `fault` for those that can fault
(R200), `pc` for all, `draws` for the one that samples `rnd_in`. -/
def writtenParts : Instr → List Part
  | .cls => [.pc, .fb, .redraw]
  | .ret => [.pc, .sp, .fault]
  | .callNnn _ => [.pc, .stack, .sp, .fault]
  | .jpNnn _ | .jpV0Nnn _ | .seVxNn _ _ | .sneVxNn _ _ | .seVxVy _ _ | .sneVxVy _ _ => [.pc]
  | .ldVxNn _ _ | .addVxNn _ _ | .ldVxVy _ _ | .orVxVy _ _ | .andVxVy _ _ | .xorVxVy _ _ | .addVxVy _ _ | .subVxVy _ _
  | .shrVx _ _ | .subnVxVy _ _ | .shlVx _ _ | .ldVxDt _ | .ldVxK _ => [.pc, .v]
  | .ldINnn _ | .addIVx _ | .ldFVx _ => [.pc, .i]
  | .rndVxNn _ _ => [.pc, .v, .draws]
  | .drwVxVyN _ _ _ => [.pc, .v, .fb, .redraw, .fault]
  | .skpVx _ | .sknpVx _ => [.pc, .fault]
  | .ldDtVx _ => [.pc, .dt]
  | .ldStVx _ => [.pc, .st]
  | .ldBVx _ | .ldMemVx _ => [.pc, .mem, .fault]
  | .ldVxMem _ => [.pc, .v, .fault]

/-- The general registers an instruction may change (R23, R39): its `x`, and VF for the flag writers; V0 to Vx for
`Fx65`. -/
def writtenRegs : Instr → List Reg
  | .ldVxNn x _ | .addVxNn x _ | .ldVxVy x _ | .orVxVy x _ | .andVxVy x _ | .xorVxVy x _ | .rndVxNn x _ | .ldVxDt x
  | .ldVxK x => [x]
  | .addVxVy x _ | .subVxVy x _ | .subnVxVy x _ | .shrVx x _ | .shlVx x _ => [x, 0xF]
  | .drwVxVyN _ _ _ => [0xF]
  | .ldVxMem x => (List.range (x.toNat + 1)).map (BitVec.ofNat 4)
  | .cls | .ret | .jpNnn _ | .callNnn _ | .seVxNn _ _ | .sneVxNn _ _ | .seVxVy _ _ | .sneVxVy _ _ | .ldINnn _
  | .jpV0Nnn _ | .skpVx _ | .sknpVx _ | .ldDtVx _ | .ldStVx _ | .addIVx _ | .ldFVx _ | .ldBVx _ | .ldMemVx _ => []

/-- How many bytes of memory an instruction stores, from `State.baseAddress` upward (R67). -/
def storedLength : Instr → Nat
  | .ldBVx _ => 3
  | .ldMemVx x => blockLength x
  | .cls | .ret | .jpNnn _ | .callNnn _ | .seVxNn _ _ | .sneVxNn _ _ | .seVxVy _ _ | .ldVxNn _ _ | .addVxNn _ _
  | .ldVxVy _ _ | .orVxVy _ _ | .andVxVy _ _ | .xorVxVy _ _ | .addVxVy _ _ | .subVxVy _ _ | .shrVx _ _ | .subnVxVy _ _
  | .shlVx _ _ | .sneVxVy _ _ | .ldINnn _ | .jpV0Nnn _ | .rndVxNn _ _ | .drwVxVyN _ _ _ | .skpVx _ | .sknpVx _
  | .ldVxDt _ | .ldVxK _ | .ldDtVx _ | .ldStVx _ | .addIVx _ | .ldFVx _ | .ldVxMem _ => 0

/-- `pc` after an instruction that does not fault, as the table of R24 gives it. -/
def pcAfter : Instr → State → Word
  | .jpNnn nnn, _ | .callNnn nnn, _ => nnn.setWidth 16
  | .jpV0Nnn nnn, s => (s.getV 0).setWidth 16 + nnn.setWidth 16
  | .ret, s => s.stack.toList.getD (s.sp.val - 1) 0
  | .seVxNn x nn, s => if s.getV x = nn then s.pc + 4 else s.pc + 2
  | .sneVxNn x nn, s => if s.getV x ≠ nn then s.pc + 4 else s.pc + 2
  | .seVxVy x y, s => if s.getV x = s.getV y then s.pc + 4 else s.pc + 2
  | .sneVxVy x y, s => if s.getV x ≠ s.getV y then s.pc + 4 else s.pc + 2
  | .skpVx x, s => if s.key.toList.getD (s.getV x).toNat false then s.pc + 4 else s.pc + 2
  | .sknpVx x, s => if s.key.toList.getD (s.getV x).toNat false then s.pc + 2 else s.pc + 4
  | .ldVxK _, s => if true ∈ s.key.toList then s.pc + 2 else s.pc
  | .cls, s | .ldVxNn _ _, s | .addVxNn _ _, s | .ldVxVy _ _, s | .orVxVy _ _, s | .andVxVy _ _, s | .xorVxVy _ _, s
  | .addVxVy _ _, s | .subVxVy _ _, s | .shrVx _ _, s | .subnVxVy _ _, s | .shlVx _ _, s | .ldINnn _, s
  | .rndVxNn _ _, s | .drwVxVyN _ _ _, s | .ldVxDt _, s | .ldDtVx _, s | .ldStVx _, s | .addIVx _, s | .ldFVx _, s
  | .ldBVx _, s | .ldMemVx _, s | .ldVxMem _, s => s.pc + 2

/-- A sprite of `n` rows drawn at (Vx, Vy) has a set bit over framebuffer cell `k`: bit 7 - c of the row's byte is its
column c, and the coordinates wrap modulo 64 and 32 (R182, R184). -/
def State.spriteCovers (s : State) (x y : Reg) (n : Nat) (k : Fin 2048) : Prop :=
  ∃ r c, r < n ∧ c < 8 ∧ (Memory.read s.mem (s.i.toNat + r)).getLsbD (7 - c) = true ∧
    ((s.getV x).toNat + c) % 64 + 64 * (((s.getV y).toNat + r) % 32) = k.val

/-- The fault an instruction raises in a state, as the table of R200 gives its condition. -/
def faultOf : Instr → State → Option FaultCause
  | .ret, s => if s.sp.val = 0 then some .stackUnderflow else none
  | .callNnn _, s => if s.sp.val = 16 then some .stackOverflow else none
  | .drwVxVyN _ _ n, s => if n > 0 ∧ s.i.toNat + n - 1 > 0xFFF then some .memRange else none
  | .ldBVx _, s => if s.i.toNat + 2 > 0xFFF then some .memRange else none
  | .ldMemVx x, s => if s.i.toNat + x.toNat > 0xFFF then some .memRange else none
  | .ldVxMem x, s => if s.i.toNat + x.toNat > 0xFFF then some .memRange else none
  | .skpVx x, s => if (s.getV x).toNat > 0x0F then some .keyRange else none
  | .sknpVx x, s => if (s.getV x).toNat > 0x0F then some .keyRange else none
  | .cls, _ | .jpNnn _, _ | .seVxNn _ _, _ | .sneVxNn _ _, _ | .seVxVy _ _, _ | .ldVxNn _ _, _ | .addVxNn _ _, _
  | .ldVxVy _ _, _ | .orVxVy _ _, _ | .andVxVy _ _, _ | .xorVxVy _ _, _ | .addVxVy _ _, _ | .subVxVy _ _, _
  | .shrVx _ _, _ | .subnVxVy _ _, _ | .shlVx _ _, _ | .sneVxVy _ _, _ | .ldINnn _, _ | .jpV0Nnn _, _
  | .rndVxNn _ _, _ | .ldVxDt _, _ | .ldVxK _, _ | .ldDtVx _, _ | .ldStVx _, _ | .addIVx _, _ | .ldFVx _, _ => none

/-- The fault of a whole step: the fetch's first, else the fetched instruction's (R206). An unrecognized word has none
(R202). -/
def stepFault (s : State) : Option FaultCause :=
  if s.pc.toNat > 0xFFE then some .fetchRange
  else match decodeWord s.fetchWord with
    | .ok i => faultOf i s
    | .error _ => none

/-- A state in which `step` runs an instruction: reset has run and there is no fault (R100). -/
def State.Running (s : State) : Prop := s.resetDone = true ∧ s.fault.valid = false

/-- What holds of the machine between any two operations once reset has run. -/
structure State.Inv (s : State) : Prop where
  /-- Memory keeps its canonical form. -/
  memWf : Memory.wf s.mem = true
  /-- "After reset pc never exceeds 0x10FE" (R24). -/
  pcBound : s.pc.toNat ≤ 0x10FE
  /-- "2nnn pushes at most 0x1000" (R24), and reset leaves zeros. -/
  stackBound : ∀ k : Fin 16, s.stack[k].toNat ≤ 0x1000
  /-- FAULT is valid exactly when it has a cause (R36, R200, R203). -/
  faultWf : s.fault.valid = true ↔ s.fault.cause ≠ .none
  /-- Reset has run, and nothing undoes that (R35). -/
  resetRan : s.resetDone = true

/-- The states the host can bring the machine to: a first reset, then its operations in any order (R214, R248). The
counter of draws may start anywhere, since the bytes drawn are free (log entry 1). -/
inductive Reachable : State → Prop where
  | boot (d : Nat) : Reachable { State.reset with draws := d }
  | op {s t : State} (o : HostOp) : Reachable s → hostDo o s = .next t → Reachable t

/-- A safe state: "a faulted state is not an end of a run but a failure" (R225). -/
def State.Safe (s : State) : Prop := s.fault.valid = false

end Sys2Proof.Machine
end

