-- ==== Sys2Proof/Certificates/Slice0/Obligations.lean ====
section
/-! DEFINITION. The statements for the provers. Each docstring names the rule of spec/ it formalises; results are given in
the spec's own integers, and every statement about an instruction also says what it leaves unchanged. -/

open Sys2Proof Sys2Proof.Machine

/-! ## Encoding -/

/-- R91, R92, R96: encoding a well-formed instruction and decoding the word gives the instruction back, every operand at
every value of its field, the ignored `y` of the shifts included. -/
def Obligations.EncodedInstructionDecodesToItself : Prop :=
  ∀ i : Instr, i.wf = true → decodeWord (encode i) = .ok i ∧
    decode (bytesOfWord (encode i)) = .ok (i, [])

/-- R91, R96: the other direction, so no word is read as an instruction whose word it is not. -/
def Obligations.DecodedWordEncodesToItself : Prop :=
  ∀ (w : Word) (i : Instr), decodeWord w = .ok i → encode i = w ∧ i.wf = true

/-- R93, R96: "a word w is the instruction exactly when w & mask == match", for the 34 masks and matches, which are
disjoint. -/
def Obligations.WordIsTheInstructionOfItsRow : Prop :=
  (∀ (w : Word) (i : Instr), decodeWord w = .ok i → rowOf i ∈ opcodeRows ∧ w &&& (rowOf i).1 = (rowOf i).2) ∧
  (∀ (w : Word) (row : Word × Word), row ∈ opcodeRows → w &&& row.1 = row.2 →
    ∃ i, decodeWord w = .ok i ∧ rowOf i = row) ∧
  (∀ (w : Word) (row row' : Word × Word), row ∈ opcodeRows → row' ∈ opcodeRows → w &&& row.1 = row.2 →
    w &&& row'.1 = row'.2 → row = row')

/-- 30_encoding.md section 5: the words that are no instruction, family by family (that the fixed digits of 5xy0 and 9xy0
count is the spec's decision D13). -/
def Obligations.UnrecognizedWordsAreTheComplement : Prop :=
  ∀ w : Word, (∀ i, decodeWord w ≠ .ok i) ↔
    ((opField w = 0x0 ∧ w ≠ 0x00E0 ∧ w ≠ 0x00EE) ∨
    (opField w = 0x5 ∧ nField w ≠ 0x0) ∨
    (opField w = 0x8 ∧ nField w ∈ [0x8#4, 0x9#4, 0xA#4, 0xB#4, 0xC#4, 0xD#4, 0xF#4]) ∨
    (opField w = 0x9 ∧ nField w ≠ 0x0) ∨
    (opField w = 0xE ∧ nnField w ∉ [0x9E#8, 0xA1#8]) ∨
    (opField w = 0xF ∧ nnField w ∉ [0x07#8, 0x0A#8, 0x15#8, 0x18#8, 0x1E#8, 0x29#8, 0x33#8, 0x55#8, 0x65#8]))

/-- 95_test_vectors.md and the examples of the rules: words written out there, at least one instruction of each of the
sixteen families of R94, and what they stand for; and two words that are no instruction. That `5121` and `8018`, which
differ from a pattern in the fixed digit only, are unrecognized is the spec's decision D13 (log entry 6). -/
def Obligations.SampleWordsDecodeAsListed : Prop :=
  decodeWord 0x00E0 = .ok .cls ∧ decodeWord 0x00EE = .ok .ret ∧ decodeWord 0x1ABC = .ok (.jpNnn 0xABC) ∧
  decodeWord 0x2400 = .ok (.callNnn 0x400) ∧ decodeWord 0x332A = .ok (.seVxNn 3 0x2A) ∧
  decodeWord 0x432A = .ok (.sneVxNn 3 0x2A) ∧ decodeWord 0x5120 = .ok (.seVxVy 1 2) ∧
  decodeWord 0x7202 = .ok (.addVxNn 2 0x02) ∧
  decodeWord 0x9120 = .ok (.sneVxVy 1 2) ∧ decodeWord 0x6A7F = .ok (.ldVxNn 0xA 0x7F) ∧
  decodeWord 0x8F14 = .ok (.addVxVy 0xF 1) ∧ decodeWord 0x80F6 = .ok (.shrVx 0 0xF) ∧
  decodeWord 0xA2F0 = .ok (.ldINnn 0x2F0) ∧ decodeWord 0xB300 = .ok (.jpV0Nnn 0x300) ∧
  decodeWord 0xC30F = .ok (.rndVxNn 3 0x0F) ∧ decodeWord 0xD125 = .ok (.drwVxVyN 1 2 5) ∧
  decodeWord 0xE29E = .ok (.skpVx 2) ∧ decodeWord 0xF20A = .ok (.ldVxK 2) ∧ decodeWord 0xFF55 = .ok (.ldMemVx 0xF) ∧
  decodeWord 0x5121 = .error (.unrecognized 0x5121) ∧ decodeWord 0x8018 = .error (.unrecognized 0x8018)

/-- R61: the byte at the lower address supplies bits 15 to 8; and a program image has the same order, its first two bytes
being the first word fetched after a load into the reset state. -/
def Obligations.FetchIsBigEndian : Prop :=
  (∀ s : State, s.fetchWord = (Memory.read s.mem s.pc.toNat).setWidth 16 <<< 8 |||
    (Memory.read s.mem (s.pc.toNat + 1)).setWidth 16) ∧
  (∀ (b0 b1 : Byte) (rest : List Byte), rest.length ≤ 3582 →
    (State.reset.loaded (b0 :: b1 :: rest)).fetchWord = b0.setWidth 16 <<< 8 ||| b1.setWidth 16)

/-- 30_encoding.md R90, R61: a word placed at pc is the word the next step fetches, in every state whose memory is in
canonical form and whose pc can be fetched from. -/
def Obligations.PlacedWordIsFetched : Prop :=
  ∀ (s : State) (w : Nat), Memory.wf s.mem = true → s.pc.toNat ≤ 0xFFE →
    (s.withFetchWord 16 w).fetchWord = BitVec.ofNat 16 w ∧ s.sameBut (s.withFetchWord 16 w) [.mem] ∧
      s.bytesSameOutside (s.withFetchWord 16 w) s.pc.toNat 2

/-! ## The step -/

/-- R100: in a running state whose pc can be fetched from, a step is exactly what `exec` answers for the decoded
instruction on that state, with the timers' decrement after it unless the instruction faulted. -/
def Obligations.StepRunsTheDecodedInstruction : Prop :=
  ∀ (s t : State) (i : Instr), s.Running → s.pc.toNat ≤ 0xFFE → decodeWord s.fetchWord = .ok i →
    exec i s = .next t → step s = .next (if t.fault.valid then t else t.tickTimers)

/-- R98: an unrecognized word advances pc by 2 and counts a timer tick, and does nothing else. -/
def Obligations.UnrecognizedWordIsANoOp : Prop :=
  ∀ s : State, s.Running → s.pc.toNat ≤ 0xFFE → (∀ i, decodeWord s.fetchWord ≠ .ok i) →
    ∃ t, step s = .next t ∧ t.pc = s.pc + 2 ∧ t.dt.toNat = s.dt.toNat - 1 ∧ t.st.toNat = s.st.toNat - 1 ∧
      s.sameBut t [.pc, .dt, .st]

/-- R211: every step that does not fault decrements each timer by one if it is nonzero, after the instruction: the
timer's value before the step counts down, or the one `Fx15` or `Fx18` has just written. A step that faults, or that
finds the machine faulted, leaves both timers. -/
def Obligations.EveryStepCountsTheTimersDown : Prop :=
  ∀ s t : State, step s = .next t →
    (t.fault.valid = false →
      ((∀ x, decodeWord s.fetchWord ≠ .ok (.ldDtVx x)) → t.dt.toNat = s.dt.toNat - 1) ∧
      (∀ x, decodeWord s.fetchWord = .ok (.ldDtVx x) → t.dt.toNat = (s.getV x).toNat - 1) ∧
      ((∀ x, decodeWord s.fetchWord ≠ .ok (.ldStVx x)) → t.st.toNat = s.st.toNat - 1) ∧
      (∀ x, decodeWord s.fetchWord = .ok (.ldStVx x) → t.st.toNat = (s.getV x).toNat - 1)) ∧
    (t.fault.valid = true → t.dt = s.dt ∧ t.st = s.st)

/-- 60_exceptions.md section 1 (the spec's decisions D9, D24): while FAULT is valid a step does nothing at all; the host's
operations go on working, the host sees the fault and its code, and no operation but reset clears it. -/
def Obligations.FaultedMachineStandsStill : Prop :=
  ∀ s : State, s.resetDone = true → s.fault.valid = true →
    step s = .next s ∧ hostFaultStatus s = .next (true, s.fault.cause.code) ∧
    (∀ op : HostOp, op ≠ .reset → ∃ t, hostDo op s = .next t ∧ t.fault = s.fault) ∧
    (∀ keys, ∃ t, hostDo (.setKeys keys) s = .next t ∧ t.key = keys) ∧
    (∀ b, ∃ t, hostDo (.setDelay b) s = .next t ∧ t.dt = b) ∧
    (∀ b, ∃ t, hostDo (.setSound b) s = .next t ∧ t.st = b) ∧
    (∃ t, hostDo .clearRedraw s = .next t ∧ t.redraw = false)

/-- 20_memory.md section 4 (the spec's decision D7): a step with pc above 0xFFE records FETCH_RANGE, code 1, and changes
nothing else. -/
def Obligations.FetchPastTheEndFaults : Prop :=
  ∀ s : State, s.Running → s.pc.toNat > 0xFFE →
    step s = .next { s with fault := ⟨true, .fetchRange⟩ } ∧ FaultCause.fetchRange.code = 1

/-- 10_state.md section 11, 60_exceptions.md section 5 (the spec's decision D19): before the first reset every operation
but reset is refused, those that only read and `load`'s report among them; reset sets RESET_DONE and nothing clears it. -/
def Obligations.OperationsBeforeResetAreRefused : Prop :=
  (∀ (s : State) (op : HostOp), s.resetDone = false → op ≠ .reset → hostDo op s = .refused .beforeReset) ∧
  (∀ s : State, s.resetDone = false → hostGetDelay s = .refused .beforeReset ∧ hostSound s = .refused .beforeReset ∧
    hostFramebuffer s = .refused .beforeReset ∧ hostRedrawPending s = .refused .beforeReset ∧
    hostFaultStatus s = .refused .beforeReset ∧ ∀ bytes, hostLoad bytes s = .refused .beforeReset) ∧
  (∀ s : State, ∃ t, hostDo .reset s = .next t) ∧
  (∀ (s t : State) (op : HostOp), hostDo op s = .next t → t.resetDone = true)

/-- 60_exceptions.md section 5 ("always succeeds"): once reset has run a step answers a next state, whatever the state
and the word. -/
def Obligations.StepAlwaysAnswersANextState : Prop :=
  (∀ s : State, s.resetDone = true → ∃ t, step s = .next t) ∧ (∀ (i : Instr) (s : State), ∃ t, exec i s = .next t)

/-- 60_exceptions.md section 1 (the spec's decisions D4 to D9, D21): a step faults exactly under the conditions of the
table, with the code the table gives, the fetch's fault before the instruction's; the fault is the whole effect of its
step. -/
def Obligations.StepFaultsExactlyByTheTable : Prop :=
  (∀ s : State, s.Running → ∀ c, stepFault s = some c → step s = .next { s with fault := ⟨true, c⟩ }) ∧
  (∀ s : State, s.Running → stepFault s = none → ∃ t, step s = .next t ∧ t.fault = s.fault) ∧
  FaultCause.none.code = 0 ∧ FaultCause.fetchRange.code = 1 ∧ FaultCause.memRange.code = 2 ∧
  FaultCause.stackOverflow.code = 3 ∧ FaultCause.stackUnderflow.code = 4 ∧ FaultCause.keyRange.code = 5

/-- 60_exceptions.md section 1 (the spec's decision D9): when a step from a running state leaves FAULT valid, every
other item is as before the step: pc still at the faulting instruction, the timers not decremented. -/
def Obligations.FaultIsTheWholeEffectOfItsStep : Prop :=
  ∀ s t : State, s.Running → step s = .next t → t.fault.valid = true → s.sameBut t [.fault] ∧ t.fault.cause ≠ .none

/-! ## Control transfer -/

/-- 40_control_transfer.md: RET; the fault at SP = 0 is the spec's decision D5. -/
def Obligations.ReturnPopsTheCallStack : Prop :=
  decodeWord 0x00EE = .ok .ret ∧
  ∀ s : State,
    (s.sp.val = 0 → exec .ret s = .next { s with fault := ⟨true, .stackUnderflow⟩ }) ∧
    (∀ k : Fin 16, s.sp.val = k.val + 1 →
      ∃ t, exec .ret s = .next t ∧ t.sp.val = k.val ∧ t.pc = s.stack[k] ∧ s.sameBut t [.sp, .pc])

/-- R121: JP nnn. -/
def Obligations.JumpLoadsThePc : Prop :=
  ∀ (nnn : Addr) (s : State), decodeWord (wordNNN 0x1#4 nnn) = .ok (.jpNnn nnn) ∧
    ∃ t, exec (.jpNnn nnn) s = .next t ∧ t.pc.toNat = nnn.toNat ∧ s.sameBut t [.pc]

/-- 40_control_transfer.md: CALL nnn; the fault at SP = 16 is the spec's decision D4. -/
def Obligations.CallPushesTheReturnAddress : Prop :=
  ∀ (nnn : Addr) (s : State), decodeWord (wordNNN 0x2#4 nnn) = .ok (.callNnn nnn) ∧
    (s.sp.val = 16 → exec (.callNnn nnn) s = .next { s with fault := ⟨true, .stackOverflow⟩ }) ∧
    (∀ k : Fin 16, s.sp.val = k.val →
      ∃ t, exec (.callNnn nnn) s = .next t ∧ t.stack[k] = s.pc + 2 ∧ (∀ j : Fin 16, j ≠ k → t.stack[j] = s.stack[j]) ∧
        t.sp.val = k.val + 1 ∧ t.pc.toNat = nnn.toNat ∧ s.sameBut t [.stack, .sp, .pc])

/-- 40_control_transfer.md: JP V0, nnn; the sum is not reduced to 12 bits (the spec's decision D22). -/
def Obligations.OffsetJumpAddsV0 : Prop :=
  ∀ (nnn : Addr) (s : State), decodeWord (wordNNN 0xB#4 nnn) = .ok (.jpV0Nnn nnn) ∧
    ∃ t, exec (.jpV0Nnn nnn) s = .next t ∧ t.pc.toNat = (s.getV 0).toNat + nnn.toNat ∧ s.sameBut t [.pc]

/-- R131, R132, R133, R134: the skips on registers. -/
def Obligations.RegisterSkipsPassTwoBytes : Prop :=
  ∀ (x y : Reg) (nn : Byte) (s : State),
    (decodeWord (wordXNN 0x3#4 x nn) = .ok (.seVxNn x nn) ∧ ∃ t, exec (.seVxNn x nn) s = .next t ∧
      t.pc = (if s.getV x = nn then s.pc + 4 else s.pc + 2) ∧ s.sameBut t [.pc]) ∧
    (decodeWord (wordXNN 0x4#4 x nn) = .ok (.sneVxNn x nn) ∧ ∃ t, exec (.sneVxNn x nn) s = .next t ∧
      t.pc = (if s.getV x ≠ nn then s.pc + 4 else s.pc + 2) ∧ s.sameBut t [.pc]) ∧
    (decodeWord (wordXYN 0x5#4 x y 0#4) = .ok (.seVxVy x y) ∧ ∃ t, exec (.seVxVy x y) s = .next t ∧
      t.pc = (if s.getV x = s.getV y then s.pc + 4 else s.pc + 2) ∧ s.sameBut t [.pc]) ∧
    (decodeWord (wordXYN 0x9#4 x y 0#4) = .ok (.sneVxVy x y) ∧ ∃ t, exec (.sneVxVy x y) s = .next t ∧
      t.pc = (if s.getV x ≠ s.getV y then s.pc + 4 else s.pc + 2) ∧ s.sameBut t [.pc])

/-! ## Registers and ALU -/

/-- R141, R143: LD Vx, nn and LD Vx, Vy. -/
def Obligations.LoadsWriteOneRegister : Prop :=
  ∀ (x y : Reg) (nn : Byte) (s : State),
    (decodeWord (wordXNN 0x6#4 x nn) = .ok (.ldVxNn x nn) ∧ ∃ t, exec (.ldVxNn x nn) s = .next t ∧
      t.getV x = nn ∧ s.regsSameBut t [x] ∧ t.pc = s.pc + 2 ∧ s.sameBut t [.v, .pc]) ∧
    (decodeWord (wordXYN 0x8#4 x y 0#4) = .ok (.ldVxVy x y) ∧ ∃ t, exec (.ldVxVy x y) s = .next t ∧
      t.getV x = s.getV y ∧ s.regsSameBut t [x] ∧ t.pc = s.pc + 2 ∧ s.sameBut t [.v, .pc])

/-- R142: ADD Vx, nn wraps modulo 256 and writes no flag: VF keeps its value unless it is Vx itself. -/
def Obligations.AddImmediateWrapsWithoutFlag : Prop :=
  ∀ (x : Reg) (nn : Byte) (s : State), decodeWord (wordXNN 0x7#4 x nn) = .ok (.addVxNn x nn) ∧
    ∃ t, exec (.addVxNn x nn) s = .next t ∧ (t.getV x).toNat = ((s.getV x).toNat + nn.toNat) % 256 ∧
      s.regsSameBut t [x] ∧ t.pc = s.pc + 2 ∧ s.sameBut t [.v, .pc]

/-- 42_register_alu.md section 3: OR, AND, XOR bit by bit, with VF unchanged unless it is Vx itself (for
OR the spec marks this as derived: "the row lists Vx as the only destination"). -/
def Obligations.LogicIsBitwiseAndLeavesTheFlag : Prop :=
  ∀ (x y : Reg) (s : State),
    (decodeWord (wordXYN 0x8#4 x y 1#4) = .ok (.orVxVy x y) ∧ ∃ t, exec (.orVxVy x y) s = .next t ∧
      (∀ j, j < 8 → (t.getV x).getLsbD j = ((s.getV x).getLsbD j || (s.getV y).getLsbD j)) ∧
      s.regsSameBut t [x] ∧ t.pc = s.pc + 2 ∧ s.sameBut t [.v, .pc]) ∧
    (decodeWord (wordXYN 0x8#4 x y 2#4) = .ok (.andVxVy x y) ∧ ∃ t, exec (.andVxVy x y) s = .next t ∧
      (∀ j, j < 8 → (t.getV x).getLsbD j = ((s.getV x).getLsbD j && (s.getV y).getLsbD j)) ∧
      s.regsSameBut t [x] ∧ t.pc = s.pc + 2 ∧ s.sameBut t [.v, .pc]) ∧
    (decodeWord (wordXYN 0x8#4 x y 3#4) = .ok (.xorVxVy x y) ∧ ∃ t, exec (.xorVxVy x y) s = .next t ∧
      (∀ j, j < 8 → (t.getV x).getLsbD j = ((s.getV x).getLsbD j != (s.getV y).getLsbD j)) ∧
      s.regsSameBut t [x] ∧ t.pc = s.pc + 2 ∧ s.sameBut t [.v, .pc])

/-- 42_register_alu.md section 4: ADD Vx, Vy; the carry is written to VF last (the spec's decision D3), so it is what VF
holds when x = 0xF. -/
def Obligations.AddSetsVfToTheCarry : Prop :=
  ∀ (x y : Reg) (s : State), decodeWord (wordXYN 0x8#4 x y 4#4) = .ok (.addVxVy x y) ∧
    ∃ t, exec (.addVxVy x y) s = .next t ∧
      (x ≠ 0xF → (t.getV x).toNat = ((s.getV x).toNat + (s.getV y).toNat) % 256) ∧
      (t.getV 0xF).toNat = (if (s.getV x).toNat + (s.getV y).toNat > 255 then 1 else 0) ∧
      s.regsSameBut t [x, 0xF] ∧ t.pc = s.pc + 2 ∧ s.sameBut t [.v, .pc]

/-- 42_register_alu.md section 4: SUB Vx, Vy; VF is 1 when there is no borrow, written last (the spec's decision D3). -/
def Obligations.SubSetsVfToNoBorrow : Prop :=
  ∀ (x y : Reg) (s : State), decodeWord (wordXYN 0x8#4 x y 5#4) = .ok (.subVxVy x y) ∧
    ∃ t, exec (.subVxVy x y) s = .next t ∧
      (x ≠ 0xF → (t.getV x).toNat = ((s.getV x).toNat + 256 - (s.getV y).toNat) % 256) ∧
      (t.getV 0xF).toNat = (if (s.getV x).toNat ≥ (s.getV y).toNat then 1 else 0) ∧
      s.regsSameBut t [x, 0xF] ∧ t.pc = s.pc + 2 ∧ s.sameBut t [.v, .pc]

/-- 42_register_alu.md section 4: SUBN Vx, Vy; Vy minus Vx, in Vx; VF is written last (the spec's decision D3). -/
def Obligations.SubnSetsVfToNoBorrow : Prop :=
  ∀ (x y : Reg) (s : State), decodeWord (wordXYN 0x8#4 x y 7#4) = .ok (.subnVxVy x y) ∧
    ∃ t, exec (.subnVxVy x y) s = .next t ∧
      (x ≠ 0xF → (t.getV x).toNat = ((s.getV y).toNat + 256 - (s.getV x).toNat) % 256) ∧
      (t.getV 0xF).toNat = (if (s.getV y).toNat ≥ (s.getV x).toNat then 1 else 0) ∧
      s.regsSameBut t [x, 0xF] ∧ t.pc = s.pc + 2 ∧ s.sameBut t [.v, .pc]

/-- 42_register_alu.md section 5: SHR and SHL by exactly one bit, whatever `y` is (the spec's decision D2); VF is the
bit shifted out, written last (its decision D3), so it is what VF holds when x = 0xF. -/
def Obligations.ShiftsMoveOneBitIntoVf : Prop :=
  ∀ (x y : Reg) (s : State),
    (decodeWord (wordXYN 0x8#4 x y 6#4) = .ok (.shrVx x y) ∧ ∃ t, exec (.shrVx x y) s = .next t ∧
      (x ≠ 0xF → (t.getV x).toNat = (s.getV x).toNat / 2) ∧ (t.getV 0xF).toNat = (s.getV x).toNat % 2 ∧
      s.regsSameBut t [x, 0xF] ∧ t.pc = s.pc + 2 ∧ s.sameBut t [.v, .pc]) ∧
    (decodeWord (wordXYN 0x8#4 x y 0xE#4) = .ok (.shlVx x y) ∧ ∃ t, exec (.shlVx x y) s = .next t ∧
      (x ≠ 0xF → (t.getV x).toNat = (s.getV x).toNat * 2 % 256) ∧ (t.getV 0xF).toNat = (s.getV x).toNat / 128 ∧
      s.regsSameBut t [x, 0xF] ∧ t.pc = s.pc + 2 ∧ s.sameBut t [.v, .pc])

/-! ## Index register and memory -/

/-- R161: LD I, nnn; the upper four bits of I become 0. -/
def Obligations.LoadIndexIsZeroExtended : Prop :=
  ∀ (nnn : Addr) (s : State), decodeWord (wordNNN 0xA#4 nnn) = .ok (.ldINnn nnn) ∧
    ∃ t, exec (.ldINnn nnn) s = .next t ∧ t.i.toNat = nnn.toNat ∧ t.pc = s.pc + 2 ∧ s.sameBut t [.i, .pc]

/-- 43_index_memory.md: ADD I, Vx keeps 16 bits and leaves VF (the spec's decision D11); LD F, Vx uses the whole of Vx
(its decision D23). -/
def Obligations.IndexArithmeticUsesSixteenBits : Prop :=
  ∀ (x : Reg) (s : State),
    (decodeWord (wordXNN 0xF#4 x 0x1E#8) = .ok (.addIVx x) ∧ ∃ t, exec (.addIVx x) s = .next t ∧
      t.i.toNat = (s.i.toNat + (s.getV x).toNat) % 65536 ∧ t.pc = s.pc + 2 ∧ s.sameBut t [.i, .pc]) ∧
    (decodeWord (wordXNN 0xF#4 x 0x29#8) = .ok (.ldFVx x) ∧ ∃ t, exec (.ldFVx x) s = .next t ∧
      t.i.toNat = (s.getV x).toNat * 5 ∧ t.pc = s.pc + 2 ∧ s.sameBut t [.i, .pc])

/-- 43_index_memory.md: LD B, Vx; the fault is the spec's decision D6. The read-back needs memory in canonical form,
which `StepKeepsTheInvariant` says every step keeps. -/
def Obligations.DecimalDigitsAreStored : Prop :=
  ∀ (x : Reg) (s : State), decodeWord (wordXNN 0xF#4 x 0x33#8) = .ok (.ldBVx x) ∧
    (s.i.toNat + 2 > 0xFFF → exec (.ldBVx x) s = .next { s with fault := ⟨true, .memRange⟩ }) ∧
    (s.i.toNat + 2 ≤ 0xFFF → ∃ t, exec (.ldBVx x) s = .next t ∧
      (Memory.wf s.mem = true →
        (Memory.read t.mem s.baseAddress).toNat = (s.getV x).toNat / 100 ∧
        (Memory.read t.mem (s.baseAddress + 1)).toNat = (s.getV x).toNat / 10 % 10 ∧
        (Memory.read t.mem (s.baseAddress + 2)).toNat = (s.getV x).toNat % 10) ∧
      s.bytesSameOutside t s.baseAddress 3 ∧ t.pc = s.pc + 2 ∧ s.sameBut t [.mem, .pc])

/-- 43_index_memory.md: LD [I], Vx stores V0 to Vx and leaves I; the fault is the spec's decision D6. The read-back
needs memory in canonical form, as above. -/
def Obligations.RegisterBlockIsStored : Prop :=
  ∀ (x : Reg) (s : State), decodeWord (wordXNN 0xF#4 x 0x55#8) = .ok (.ldMemVx x) ∧
    (s.i.toNat + x.toNat > 0xFFF → exec (.ldMemVx x) s = .next { s with fault := ⟨true, .memRange⟩ }) ∧
    (s.i.toNat + x.toNat ≤ 0xFFF → ∃ t, exec (.ldMemVx x) s = .next t ∧
      (Memory.wf s.mem = true →
        ∀ k : Reg, k.toNat ≤ x.toNat → Memory.read t.mem (s.baseAddress + k.toNat) = s.getV k) ∧
      s.bytesSameOutside t s.baseAddress (x.toNat + 1) ∧ t.pc = s.pc + 2 ∧ s.sameBut t [.mem, .pc])

/-- 43_index_memory.md: LD Vx, [I] loads V0 to Vx, leaves the registers above Vx, I and memory; the fault is the spec's
decision D6. -/
def Obligations.RegisterBlockIsLoaded : Prop :=
  ∀ (x : Reg) (s : State), decodeWord (wordXNN 0xF#4 x 0x65#8) = .ok (.ldVxMem x) ∧
    (s.i.toNat + x.toNat > 0xFFF → exec (.ldVxMem x) s = .next { s with fault := ⟨true, .memRange⟩ }) ∧
    (s.i.toNat + x.toNat ≤ 0xFFF → ∃ t, exec (.ldVxMem x) s = .next t ∧
      (∀ k : Reg, k.toNat ≤ x.toNat → t.getV k = Memory.read s.mem (s.i.toNat + k.toNat)) ∧
      (∀ k : Reg, k.toNat > x.toNat → t.getV k = s.getV k) ∧ t.pc = s.pc + 2 ∧ s.sameBut t [.v, .pc])

/-- 20_memory.md section 7, "Instruction fetch is coherent with stores" (the spec marks it as derived): fetch is
coherent with stores. When the instruction after a register block store lies inside the block, its word is the two
registers stored there. -/
def Obligations.StoreIsSeenByTheNextFetch : Prop :=
  ∀ (x k : Reg) (s t : State), Memory.wf s.mem = true → s.i.toNat + x.toNat ≤ 0xFFF → exec (.ldMemVx x) s = .next t →
    k.toNat < x.toNat → t.pc.toNat = s.i.toNat + k.toNat →
    t.fetchWord = (s.getV k).setWidth 16 <<< 8 ||| (s.getV (k + 1)).setWidth 16

/-! ## Random byte, timers, keypad -/

/-- 44_random_timers_keypad.md section 1: RND Vx, nn (the spec's decision D10). The byte is the free value
`Config.rndIn` of this draw (log entry 1), of which nothing is assumed; the draw is used up, so the next RND gets one
of its own. -/
def Obligations.RandomByteIsMasked : Prop :=
  ∀ (x : Reg) (nn : Byte) (s : State), decodeWord (wordXNN 0xC#4 x nn) = .ok (.rndVxNn x nn) ∧
    ∃ t, exec (.rndVxNn x nn) s = .next t ∧ t.draws = s.draws + 1 ∧
      (∀ j, j < 8 → (t.getV x).getLsbD j = ((Config.rndIn s.draws).getLsbD j && nn.getLsbD j)) ∧
      s.regsSameBut t [x] ∧ t.pc = s.pc + 2 ∧ s.sameBut t [.v, .pc, .draws]

/-- 44_random_timers_keypad.md section 2: reading DT, setting DT, setting ST, before the step's decrement. -/
def Obligations.TimerTransfers : Prop :=
  ∀ (x : Reg) (s : State),
    (decodeWord (wordXNN 0xF#4 x 0x07#8) = .ok (.ldVxDt x) ∧ ∃ t, exec (.ldVxDt x) s = .next t ∧
      t.getV x = s.dt ∧ s.regsSameBut t [x] ∧ t.pc = s.pc + 2 ∧ s.sameBut t [.v, .pc]) ∧
    (decodeWord (wordXNN 0xF#4 x 0x15#8) = .ok (.ldDtVx x) ∧ ∃ t, exec (.ldDtVx x) s = .next t ∧
      t.dt = s.getV x ∧ t.pc = s.pc + 2 ∧ s.sameBut t [.dt, .pc]) ∧
    (decodeWord (wordXNN 0xF#4 x 0x18#8) = .ok (.ldStVx x) ∧ ∃ t, exec (.ldStVx x) s = .next t ∧
      t.st = s.getV x ∧ t.pc = s.pc + 2 ∧ s.sameBut t [.st, .pc])

/-- 44_random_timers_keypad.md section 3: SKP and SKNP on the key numbered by the whole of Vx; the fault is the spec's
decision D8. -/
def Obligations.KeySkipsTestTheLatch : Prop :=
  ∀ (x : Reg) (s : State),
    decodeWord (wordXNN 0xE#4 x 0x9E#8) = .ok (.skpVx x) ∧ decodeWord (wordXNN 0xE#4 x 0xA1#8) = .ok (.sknpVx x) ∧
    ((s.getV x).toNat > 0x0F → exec (.skpVx x) s = .next { s with fault := ⟨true, .keyRange⟩ } ∧
      exec (.sknpVx x) s = .next { s with fault := ⟨true, .keyRange⟩ }) ∧
    (∀ k : Fin 16, (s.getV x).toNat = k.val →
      (∃ t, exec (.skpVx x) s = .next t ∧ t.pc = (if s.key[k] = true then s.pc + 4 else s.pc + 2) ∧ s.sameBut t [.pc]) ∧
      (∃ t, exec (.sknpVx x) s = .next t ∧ t.pc = (if s.key[k] = false then s.pc + 4 else s.pc + 2) ∧
        s.sameBut t [.pc]))

/-- R177: LD Vx, K. With no key pressed the instruction leaves the state as it was before the step, pc included, and the
step counts the timers down; else Vx is the least pressed key. -/
def Obligations.KeyWaitStoresTheLowestKey : Prop :=
  ∀ (x : Reg) (s : State), decodeWord (wordXNN 0xF#4 x 0x0A#8) = .ok (.ldVxK x) ∧
    ((∀ k : Fin 16, s.key[k] = false) → exec (.ldVxK x) s = .next s ∧
      (s.Running → s.pc.toNat ≤ 0xFFE → decodeWord s.fetchWord = .ok (.ldVxK x) →
        ∃ t, step s = .next t ∧ t.dt.toNat = s.dt.toNat - 1 ∧ t.st.toNat = s.st.toNat - 1 ∧ s.sameBut t [.dt, .st])) ∧
    (∀ k : Fin 16, s.key[k] = true → (∀ j : Fin 16, j < k → s.key[j] = false) →
      ∃ t, exec (.ldVxK x) s = .next t ∧ (t.getV x).toNat = k.val ∧ s.regsSameBut t [x] ∧ t.pc = s.pc + 2 ∧
        s.sameBut t [.v, .pc])

/-! ## Display -/

/-- R181: CLS; REDRAW is set whether or not a pixel was lit, VF is unchanged. -/
def Obligations.ClearTurnsEveryPixelOff : Prop :=
  decodeWord 0x00E0 = .ok .cls ∧
  ∀ s : State, ∃ t, exec .cls s = .next t ∧ (∀ k : Fin 2048, t.fb[k] = false) ∧ t.redraw = true ∧ t.pc = s.pc + 2 ∧
    s.sameBut t [.fb, .redraw, .pc]

/-- 45_display.md: DRW Vx, Vy, n; the fault is the spec's decision D6 and the bit order its decision D17 (log entry
6); with the coordinates as they were before VF is written. -/
def Obligations.DrawXorsTheSpriteAndReportsCollision : Prop :=
  ∀ (x y : Reg) (n : Nat) (s : State), n ≤ 15 →
    decodeWord (wordXYN 0xD#4 x y (BitVec.ofNat 4 n)) = .ok (.drwVxVyN x y n) ∧
    (n > 0 → s.i.toNat + n - 1 > 0xFFF → exec (.drwVxVyN x y n) s = .next { s with fault := ⟨true, .memRange⟩ }) ∧
    ((n > 0 → s.i.toNat + n - 1 ≤ 0xFFF) → ∃ t, exec (.drwVxVyN x y n) s = .next t ∧
      (∀ k : Fin 2048, (s.spriteCovers x y n k → t.fb[k] = !s.fb[k]) ∧
        (¬ s.spriteCovers x y n k → t.fb[k] = s.fb[k])) ∧
      ((∃ k : Fin 2048, s.fb[k] = true ∧ t.fb[k] = false) → t.getV 0xF = 1) ∧
      ((¬ ∃ k : Fin 2048, s.fb[k] = true ∧ t.fb[k] = false) → t.getV 0xF = 0) ∧
      t.redraw = true ∧ s.regsSameBut t [0xF] ∧ t.pc = s.pc + 2 ∧ s.sameBut t [.fb, .v, .redraw, .pc])

/-- 45_display.md (the spec's decision D26): the draw with n = 0 reads no memory, changes no pixel, writes VF = 0,
sets REDRAW and cannot fault. -/
def Obligations.DrawOfNoRows : Prop :=
  ∀ (x y : Reg) (s : State), decodeWord (wordXYN 0xD#4 x y 0#4) = .ok (.drwVxVyN x y 0) ∧
    ∃ t, exec (.drwVxVyN x y 0) s = .next t ∧ t.getV 0xF = 0 ∧ t.redraw = true ∧ s.regsSameBut t [0xF] ∧
      t.pc = s.pc + 2 ∧ s.sameBut t [.v, .redraw, .pc]

/-- 45_display.md and source property S8 of 95_test_vectors.md: drawing the same sprite twice at the same place puts the
framebuffer back, and the second draw collides exactly when it toggled a pixel off. Which pixels a sprite covers
(`spriteCovers`) takes bit 7 as the leftmost column: the spec's decision D17, from general knowledge (log entry 6). The
second draw is at the same place when neither coordinate register is VF, which the first draw overwrites. -/
def Obligations.DrawingTwiceRestoresTheFramebuffer : Prop :=
  ∀ (x y : Reg) (n : Nat) (s : State), n ≤ 15 → x ≠ 0xF → y ≠ 0xF → faultOf (.drwVxVyN x y n) s = none →
    ∃ t u, exec (.drwVxVyN x y n) s = .next t ∧ exec (.drwVxVyN x y n) t = .next u ∧ u.fb = s.fb ∧
      (u.getV 0xF = 1 ↔ ∃ k : Fin 2048, s.spriteCovers x y n k ∧ s.fb[k] = false)

/-! ## Frames and whole-machine rules -/

/-- R39: an instruction changes no item of state but those the access matrix gives it. -/
def Obligations.InstructionsKeepToTheAccessMatrix : Prop :=
  ∀ (i : Instr) (s : State), ∃ t, exec i s = .next t ∧ s.sameBut t (writtenParts i)

/-- R23, R39: an instruction changes no general register but its destination and, for the flag writers, VF. -/
def Obligations.InstructionsKeepToTheirRegisters : Prop :=
  ∀ (i : Instr) (s : State), ∃ t, exec i s = .next t ∧ s.regsSameBut t (writtenRegs i)

/-- R21, R67: every byte of memory outside the bytes an instruction stores to reads as before; only `Fx33` and `Fx55`
store. -/
def Obligations.InstructionsKeepToTheirStoredBytes : Prop :=
  ∀ (i : Instr) (s : State), ∃ t, exec i s = .next t ∧ s.bytesSameOutside t s.baseAddress (storedLength i)

/-- 10_state.md section 4: pc after each instruction that does not fault, for every instruction; that additions to pc are
modulo 2^16 is the spec's decision D22. -/
def Obligations.PcAfterEveryInstruction : Prop :=
  ∀ (i : Instr) (s : State), faultOf i s = none → ∃ t, exec i s = .next t ∧ t.pc = pcAfter i s

/-- 60_exceptions.md section 1 (the spec's decisions D4 to D9): exec takes the table's fault as a next state and otherwise
leaves FAULT alone. -/
def Obligations.InstructionsFaultExactlyByTheTable : Prop :=
  ∀ (i : Instr) (s : State),
    (∀ c, faultOf i s = some c → exec i s = .next { s with fault := ⟨true, c⟩ }) ∧
    (faultOf i s = none → ∃ t, exec i s = .next t ∧ t.fault = s.fault)

/-- R28, R31, R33, R35, R39: whatever a step runs, it never writes the keypad latch, never clears REDRAW, never clears
RESET_DONE, and never moves SP by more than one. -/
def Obligations.StepNeverWritesTheHostsItems : Prop :=
  ∀ s t : State, step s = .next t → t.key = s.key ∧ (s.redraw = true → t.redraw = true) ∧ t.resetDone = s.resetDone ∧
    t.sp.val ≤ s.sp.val + 1 ∧ s.sp.val ≤ t.sp.val + 1

/-- R32, R39: a step that does not run `00E0` or `Dxyn` leaves the framebuffer; one that does not run `Fx33` or `Fx55`
leaves memory; one that does not run `Annn`, `Fx1E` or `Fx29` leaves I; one that does not run `2nnn` leaves STACK. -/
def Obligations.StepWritesOnlyThroughTheNamedInstructions : Prop :=
  ∀ s t : State, step s = .next t →
    (decodeWord s.fetchWord ≠ .ok .cls → (∀ x y n, decodeWord s.fetchWord ≠ .ok (.drwVxVyN x y n)) → t.fb = s.fb) ∧
    ((∀ x, decodeWord s.fetchWord ≠ .ok (.ldBVx x)) → (∀ x, decodeWord s.fetchWord ≠ .ok (.ldMemVx x)) →
      t.mem = s.mem) ∧
    ((∀ nnn, decodeWord s.fetchWord ≠ .ok (.ldINnn nnn)) → (∀ x, decodeWord s.fetchWord ≠ .ok (.addIVx x)) →
      (∀ x, decodeWord s.fetchWord ≠ .ok (.ldFVx x)) → t.i = s.i) ∧
    ((∀ nnn, decodeWord s.fetchWord ≠ .ok (.callNnn nnn)) → t.stack = s.stack)

/-- 10_state.md section 15: no instruction reads ST or REDRAW: two states that differ only there are taken to states that
differ only there. For `Cxnn` the two executions compared are given the same draw, since both states hold the same
counter of draws: that is the model's choice (log entry 1), while the draws of two executions on the hardware are
independent (the spec's decision D10). -/
def Obligations.NoInstructionReadsSoundTimerOrRedraw : Prop :=
  ∀ (i : Instr) (s : State) (b : Byte) (f : Bool), ∃ t u, exec i s = .next t ∧
    exec i { s with st := b, redraw := f } = .next u ∧ t.sameBut u [.st, .redraw]

/-! ## Invariants -/

/-- R38: the reset state meets the invariant, wherever the counter of draws stands. -/
def Obligations.ResetStateMeetsTheInvariant : Prop := ∀ d : Nat, ({ State.reset with draws := d } : State).Inv

/-- 10_state.md: every step keeps the invariant: memory in canonical form, pc at most 0x10FE, every stack entry at
most 0x1000, FAULT valid exactly when it has a cause, RESET_DONE. -/
def Obligations.StepKeepsTheInvariant : Prop := ∀ s t : State, s.Inv → step s = .next t → t.Inv

/-- R214: so does every other operation of the host. -/
def Obligations.HostOperationsKeepTheInvariant : Prop :=
  ∀ (op : HostOp) (s t : State), op ≠ .step → s.Inv → hostDo op s = .next t → t.Inv

/-- 10_state.md section 4, "After reset pc never exceeds 0x10FE" (marked there as derived): whatever the host loads and does, and no entry of the stack ever exceeds
0x1000. -/
def Obligations.ReachablePcIsBounded : Prop :=
  ∀ s : State, Reachable s → s.pc.toNat ≤ 0x10FE ∧ ∀ k : Fin 16, s.stack[k].toNat ≤ 0x1000

/-! ## Reset, load, host operations -/

/-- 10_state.md section 14, 70_reset_and_hazards.md section 1: reset from any state gives the table's state, the font
being the model's table (general knowledge of the spec's, log entry 3); the model's own counter of draws goes on (log
entry 1). -/
def Obligations.ResetGivesTheTablesState : Prop :=
  ∀ s : State, ∃ t, hostDo .reset s = .next t ∧
    fontTable.length = 80 ∧ (∀ a, a < 80 → some (Memory.read t.mem a) = fontTable[a]?) ∧
    (∀ a, 80 ≤ a → a ≤ 0xFFF → Memory.read t.mem a = 0) ∧
    (∀ r : Reg, t.getV r = 0) ∧ t.pc = 0x0200 ∧ t.i = 0 ∧ (∀ k : Fin 16, t.stack[k] = 0) ∧ t.sp.val = 0 ∧ t.dt = 0 ∧
    t.st = 0 ∧ (∀ k : Fin 16, t.key[k] = false) ∧ (∀ k : Fin 2048, t.fb[k] = false) ∧ t.redraw = false ∧
    t.fault.valid = false ∧ t.fault.cause.code = 0 ∧ t.resetDone = true ∧ t.draws = s.draws

/-- R245, R246: load copies an image of at most 3584 bytes to 0x200 upward and touches nothing else; a larger one is
answered ImageTooLarge with no state changed. The read-back needs memory in canonical form. -/
def Obligations.LoadCopiesTheImage : Prop :=
  ∀ (s : State) (bytes : List Byte), s.resetDone = true →
    (bytes.length ≤ 3584 → ∃ t, hostLoad bytes s = .next (t, .success) ∧
      (Memory.wf s.mem = true → ∀ (k : Nat) (hk : k < bytes.length), Memory.read t.mem (0x200 + k) = bytes[k]) ∧
      s.bytesSameOutside t 0x200 bytes.length ∧ s.sameBut t [.mem]) ∧
    (bytes.length > 3584 → hostLoad bytes s = .next (s, .imageTooLarge))

/-- 60_exceptions.md section 5 (that the host can read ST, and the fault status, are the spec's decisions D15 and D9):
getDelay returns DT, st_out ST, framebuffer the 2048 cells, redrawPending REDRAW, the fault status FAULT; setKeys replaces
the whole latch, setDelay writes DT and setSound ST, every byte unclamped, and clearRedraw clears REDRAW; each write
changes nothing else. -/
def Obligations.HostWritesOneItemEach : Prop :=
  ∀ s : State, s.resetDone = true →
    hostGetDelay s = .next s.dt ∧ hostSound s = .next s.st ∧ hostFramebuffer s = .next s.fb ∧
    hostRedrawPending s = .next s.redraw ∧ hostFaultStatus s = .next (s.fault.valid, s.fault.cause.code) ∧
    (∀ keys, ∃ t, hostSetKeys keys s = .next t ∧ (∀ k : Fin 16, t.key[k] = keys[k]) ∧ s.sameBut t [.key]) ∧
    (∀ b, ∃ t, hostSetDelay b s = .next t ∧ t.dt = b ∧ hostGetDelay t = .next b ∧ s.sameBut t [.dt]) ∧
    (∀ b, ∃ t, hostSetSound b s = .next t ∧ t.st = b ∧ hostSound t = .next b ∧ s.sameBut t [.st]) ∧
    (∃ t, hostClearRedraw s = .next t ∧ hostRedrawPending t = .next false ∧ s.sameBut t [.redraw])
end

