-- ==== Sys2Proof/Laws/Decode.lean ====
section
/-! SUPPORT. The fields of a word put together in one of the formats of R91. -/

namespace Sys2Proof

section Fields

variable (op : BitVec 4) (nnn : Addr) (x y : Reg) (nn : Byte) (n : BitVec 4) (i : Nat)

theorem getLsbD_wordNNN :
    (wordNNN op nnn).getLsbD i = if i < 12 then nnn.getLsbD i else op.getLsbD (i - 12) := by
  rw [wordNNN, show ((op ++ nnn : Word)).getLsbD i = _ from BitVec.getLsbD_append]

theorem getLsbD_wordXNN : (wordXNN op x nn).getLsbD i =
    if i < 8 then nn.getLsbD i else if i < 12 then x.getLsbD (i - 8) else op.getLsbD (i - 12) := by
  have : (wordXNN op x nn).getLsbD i = if i < 12 then (x ++ nn : BitVec 12).getLsbD i else op.getLsbD (i - 12) :=
    getLsbD_wordNNN op (x ++ nn) i
  rw [this, show (x ++ nn : BitVec 12).getLsbD i = _ from BitVec.getLsbD_append]
  split_ifs <;> first | rfl | omega

theorem getLsbD_wordXYN : (wordXYN op x y n).getLsbD i =
    if i < 4 then n.getLsbD i else if i < 8 then y.getLsbD (i - 4) else
      if i < 12 then x.getLsbD (i - 8) else op.getLsbD (i - 12) := by
  have : (wordXYN op x y n).getLsbD i =
      if i < 8 then (y ++ n : BitVec 8).getLsbD i else if i < 12 then x.getLsbD (i - 8) else op.getLsbD (i - 12) :=
    getLsbD_wordXNN op x (y ++ n) i
  rw [this, show (y ++ n : BitVec 8).getLsbD i = _ from BitVec.getLsbD_append]
  split_ifs <;> first | rfl | omega

/-- A slice is determined by its bits. -/
theorem extractLsb'_eq {lo len : Nat} {w : Word} {f : BitVec len}
    (h : ∀ i, i < len → w.getLsbD (lo + i) = f.getLsbD i) : w.extractLsb' lo len = f := by
  apply BitVec.eq_of_getLsbD_eq
  intro i hi
  rw [BitVec.getLsbD_extractLsb', h i hi]
  simp [hi]

@[simp] theorem opField_wordNNN : opField (wordNNN op nnn) = op :=
  extractLsb'_eq fun i _ => by rw [getLsbD_wordNNN, if_neg (by omega)]; congr 1; omega

@[simp] theorem nnnField_wordNNN : nnnField (wordNNN op nnn) = nnn :=
  extractLsb'_eq fun i hi => by rw [getLsbD_wordNNN, if_pos (by omega)]; congr 1; omega

@[simp] theorem opField_wordXNN : opField (wordXNN op x nn) = op :=
  extractLsb'_eq fun i _ => by rw [getLsbD_wordXNN, if_neg (by omega), if_neg (by omega)]; congr 1; omega

@[simp] theorem xField_wordXNN : xField (wordXNN op x nn) = x :=
  extractLsb'_eq fun i hi => by rw [getLsbD_wordXNN, if_neg (by omega), if_pos (by omega)]; congr 1; omega

@[simp] theorem nnField_wordXNN : nnField (wordXNN op x nn) = nn :=
  extractLsb'_eq fun i hi => by rw [getLsbD_wordXNN, if_pos (by omega)]; congr 1; omega

@[simp] theorem opField_wordXYN : opField (wordXYN op x y n) = op :=
  extractLsb'_eq fun i _ => by
    rw [getLsbD_wordXYN, if_neg (by omega), if_neg (by omega), if_neg (by omega)]; congr 1; omega

@[simp] theorem xField_wordXYN : xField (wordXYN op x y n) = x :=
  extractLsb'_eq fun i hi => by
    rw [getLsbD_wordXYN, if_neg (by omega), if_neg (by omega), if_pos (by omega)]; congr 1; omega

@[simp] theorem yField_wordXYN : yField (wordXYN op x y n) = y :=
  extractLsb'_eq fun i hi => by rw [getLsbD_wordXYN, if_neg (by omega), if_pos (by omega)]; congr 1; omega

@[simp] theorem nField_wordXYN : nField (wordXYN op x y n) = n :=
  extractLsb'_eq fun i hi => by rw [getLsbD_wordXYN, if_pos (by omega)]; congr 1; omega

end Fields

/-- A word is its `op` and `nnn`, or its `op`, `x` and `nn`, or its four nibbles (R9, R91). -/
theorem wordNNN_fields (w : Word) : wordNNN (opField w) (nnnField w) = w := by
  apply BitVec.eq_of_getLsbD_eq
  intro i hi
  rw [getLsbD_wordNNN, opField, nnnField, BitVec.getLsbD_extractLsb', BitVec.getLsbD_extractLsb']
  split
  · next h => simp [h]
  · next h => simp [show 12 + (i - 12) = i by omega, show i - 12 < 4 by omega]

theorem wordXNN_fields (w : Word) : wordXNN (opField w) (xField w) (nnField w) = w := by
  apply BitVec.eq_of_getLsbD_eq
  intro i hi
  rw [getLsbD_wordXNN, opField, xField, nnField]
  simp only [BitVec.getLsbD_extractLsb']
  split_ifs with h1 h2
  · simp [h1]
  · simp [show 8 + (i - 8) = i by omega, show i - 8 < 4 by omega]
  · simp [show 12 + (i - 12) = i by omega, show i - 12 < 4 by omega]

theorem wordXYN_fields (w : Word) : wordXYN (opField w) (xField w) (yField w) (nField w) = w := by
  apply BitVec.eq_of_getLsbD_eq
  intro i hi
  rw [getLsbD_wordXYN, opField, xField, yField, nField]
  simp only [BitVec.getLsbD_extractLsb']
  split_ifs with h1 h2 h3
  · simp [h1]
  · simp [show 4 + (i - 4) = i by omega, show i - 4 < 4 by omega]
  · simp [show 8 + (i - 8) = i by omega, show i - 8 < 4 by omega]
  · simp [show 12 + (i - 12) = i by omega, show i - 12 < 4 by omega]

/-- A word's two bytes, most significant first, make the word again (R61). -/
@[simp] theorem wordOfBytes_bytes (w : Word) : wordOfBytes (w.extractLsb' 8 8) (w.extractLsb' 0 8) = w := by
  apply BitVec.eq_of_getLsbD_eq
  intro i hi
  rw [wordOfBytes, show ((w.extractLsb' 8 8 ++ w.extractLsb' 0 8 : Word)).getLsbD i = _ from BitVec.getLsbD_append]
  simp only [BitVec.getLsbD_extractLsb']
  split
  · next h => simp [h]
  · next h => simp [show 8 + (i - 8) = i by omega, show i - 8 < 8 by omega]

/-! ## The masks of R96 keep the fixed digits -/

theorem wordNNN_and_F000 (op : BitVec 4) (nnn : Addr) : wordNNN op nnn &&& 0xF000 = wordNNN op 0 := by
  apply BitVec.eq_of_getLsbD_eq
  intro i hi
  rw [BitVec.getLsbD_and, getLsbD_wordNNN, getLsbD_wordNNN]
  interval_cases i <;> simp [BitVec.getLsbD] <;> exact fun _ => rfl

theorem wordXNN_and_F000 (op : BitVec 4) (x : Reg) (nn : Byte) : wordXNN op x nn &&& 0xF000 = wordXNN op 0 0 := by
  apply BitVec.eq_of_getLsbD_eq
  intro i hi
  rw [BitVec.getLsbD_and, getLsbD_wordXNN, getLsbD_wordXNN]
  interval_cases i <;> simp [BitVec.getLsbD] <;> exact fun _ => rfl

theorem wordXNN_and_F0FF (op : BitVec 4) (x : Reg) (nn : Byte) : wordXNN op x nn &&& 0xF0FF = wordXNN op 0 nn := by
  apply BitVec.eq_of_getLsbD_eq
  intro i hi
  rw [BitVec.getLsbD_and, getLsbD_wordXNN, getLsbD_wordXNN]
  interval_cases i <;> simp [BitVec.getLsbD] <;> exact fun _ => rfl

theorem wordXYN_and_F00F (op : BitVec 4) (x y : Reg) (n : BitVec 4) :
    wordXYN op x y n &&& 0xF00F = wordXYN op 0 0 n := by
  apply BitVec.eq_of_getLsbD_eq
  intro i hi
  rw [BitVec.getLsbD_and, getLsbD_wordXYN, getLsbD_wordXYN]
  interval_cases i <;> simp [BitVec.getLsbD] <;> exact fun _ => rfl

theorem wordXYN_and_F000 (op : BitVec 4) (x y : Reg) (n : BitVec 4) :
    wordXYN op x y n &&& 0xF000 = wordXYN op 0 0 0 := by
  apply BitVec.eq_of_getLsbD_eq
  intro i hi
  rw [BitVec.getLsbD_and, getLsbD_wordXYN, getLsbD_wordXYN]
  interval_cases i <;> simp [BitVec.getLsbD] <;> exact fun _ => rfl

end Sys2Proof
end

