-- ==== Sys2Proof/Laws/Memory.lean ====
section
/-! SUPPORT. What the memory operations do, and that they keep the canonical form. -/

namespace Sys2Proof.Machine

/-! ## The canonical form is kept -/

theorem Memory.wfFrom_cons {lo a : Nat} {b : Byte} {rest : Memory} :
    Memory.wfFrom lo ((a, b) :: rest) = true ↔
      lo ≤ a ∧ a < memSize ∧ b ≠ resetByte a ∧ Memory.wfFrom (a + 1) rest = true := by
  simp [Memory.wfFrom, and_assoc]

/-- Raising the lower bound only asks more. -/
theorem Memory.wfFrom_mono {lo hi : Nat} (h : lo ≤ hi) : ∀ {m : Memory}, Memory.wfFrom hi m = true →
    Memory.wfFrom lo m = true
  | [], _ => rfl
  | (_, _) :: _, hm => by
    rw [Memory.wfFrom_cons] at hm ⊢
    exact ⟨h.trans hm.1, hm.2⟩

theorem Memory.store_wfFrom {a : Nat} (b : Byte) (ha : a < memSize) : ∀ {lo : Nat} {m : Memory}, lo ≤ a →
    Memory.wfFrom lo m = true → Memory.wfFrom lo (Memory.store m a b) = true
  | lo, [], hl, _ => by
    by_cases hb : b = resetByte a
    · simp [Memory.store, hb, Memory.wfFrom]
    · simp [Memory.store, hb, Memory.wfFrom, hl, ha]
  | lo, (k, c) :: rest, hl, hm => by
    obtain ⟨h1, h2, h3, h4⟩ := Memory.wfFrom_cons.1 hm
    unfold Memory.store
    split
    · next hak =>
      split
      · exact hm
      · next hb => exact Memory.wfFrom_cons.2 ⟨hl, ha, hb, Memory.wfFrom_cons.2 ⟨hak, h2, h3, h4⟩⟩
    · next hak =>
      split
      · next hk =>
        subst hk
        split
        · exact Memory.wfFrom_mono (by omega) h4
        · next hb => exact Memory.wfFrom_cons.2 ⟨hl, ha, hb, h4⟩
      · next hk => exact Memory.wfFrom_cons.2 ⟨h1, h2, h3, Memory.store_wfFrom b ha (by omega) h4⟩

/-- A write keeps the canonical form. -/
theorem Memory.write_wf {m : Memory} (h : Memory.wf m = true) (a : Nat) (b : Byte) :
    Memory.wf (Memory.write m a b) = true := by
  unfold Memory.write
  split
  · next ha => exact Memory.store_wfFrom b ha (Nat.zero_le a) h
  · exact h

/-- A block write keeps the canonical form. -/
theorem Memory.writeBlock_wf : ∀ {bs : List Byte} {m : Memory} {a : Nat}, Memory.wf m = true →
    Memory.wf (Memory.writeBlock m a bs) = true
  | [], _, _, h => h
  | b :: bs, _, a, h => by
    rw [Memory.writeBlock]
    exact Memory.writeBlock_wf (Memory.write_wf h a b)

/-- The memory after reset, which lists nothing, is in canonical form. -/
theorem Memory.wf_nil : Memory.wf [] = true := rfl

/-! ## Reads after writes -/

/-- Below the first address that can be listed a cell reads as its reset content. -/
theorem Memory.read_of_lt {a : Nat} : ∀ {lo : Nat} {m : Memory}, Memory.wfFrom lo m = true → a < lo →
    Memory.read m a = resetByte a
  | _, [], _, _ => rfl
  | _, (k, _) :: _, hm, ha => by
    obtain ⟨h1, _, _, h4⟩ := Memory.wfFrom_cons.1 hm
    rw [Memory.read, if_neg (by omega : k ≠ a)]
    exact Memory.read_of_lt h4 (by omega)

theorem Memory.read_store_self {a : Nat} (b : Byte) : ∀ {lo : Nat} {m : Memory}, Memory.wfFrom lo m = true →
    Memory.read (Memory.store m a b) a = b
  | _, [], _ => by
    by_cases hb : b = resetByte a
    · simp [Memory.store, hb, Memory.read]
    · simp [Memory.store, hb, Memory.read]
  | _, (k, c) :: rest, hm => by
    obtain ⟨_, _, _, h4⟩ := Memory.wfFrom_cons.1 hm
    unfold Memory.store
    split
    · next hak =>
      split
      · next hb =>
        rw [Memory.read, if_neg (by omega : k ≠ a), hb]
        exact Memory.read_of_lt h4 (by omega)
      · rw [Memory.read, if_pos rfl]
    · split
      · next hk =>
        subst hk
        split
        · next hb =>
          rw [hb]
          exact Memory.read_of_lt h4 (by omega)
        · rw [Memory.read, if_pos rfl]
      · next hk =>
        rw [Memory.read, if_neg (fun e => hk e.symm)]
        exact Memory.read_store_self b h4

theorem Memory.read_store_of_ne {a c : Nat} (h : c ≠ a) (b : Byte) : ∀ {m : Memory},
    Memory.read (Memory.store m a b) c = Memory.read m c
  | [] => by
    unfold Memory.store
    split
    · rfl
    · simp [Memory.read, h.symm]
  | (k, d) :: rest => by
    unfold Memory.store
    split
    · split
      · rfl
      · rw [Memory.read, if_neg (Ne.symm h)]
    · split
      · next hk =>
        subst hk
        split
        · rw [Memory.read, if_neg (Ne.symm h)]
        · rw [Memory.read, if_neg (Ne.symm h), Memory.read, if_neg (Ne.symm h)]
      · rw [Memory.read, Memory.read, Memory.read_store_of_ne h b]

/-- The byte written is the byte read back. -/
theorem Memory.read_write_self {m : Memory} (h : Memory.wf m = true) {a : Nat} (ha : a < memSize) (b : Byte) :
    Memory.read (Memory.write m a b) a = b := by
  rw [Memory.write, if_pos ha]
  exact Memory.read_store_self b h

/-- A write changes only the addressed cell (R63). -/
theorem Memory.read_write_of_ne (m : Memory) {a c : Nat} (h : c ≠ a) (b : Byte) :
    Memory.read (Memory.write m a b) c = Memory.read m c := by
  unfold Memory.write
  split
  · exact Memory.read_store_of_ne h b
  · rfl

/-- A block write changes only its own cells. -/
theorem Memory.read_writeBlock_outside {c : Nat} : ∀ (bs : List Byte) (m : Memory) (a : Nat),
    ¬ (a ≤ c ∧ c < a + bs.length) → Memory.read (Memory.writeBlock m a bs) c = Memory.read m c
  | [], _, _, _ => rfl
  | b :: bs, m, a, h => by
    simp only [List.length_cons] at h
    rw [Memory.writeBlock, Memory.read_writeBlock_outside bs _ _ (by omega),
      Memory.read_write_of_ne _ (by omega)]

/-- Byte `k` of the block is what its cell reads as afterwards. -/
theorem Memory.read_writeBlock_inside : ∀ (bs : List Byte) {m : Memory} {a : Nat}, Memory.wf m = true →
    a + bs.length ≤ memSize → ∀ (k : Nat) (hk : k < bs.length), Memory.read (Memory.writeBlock m a bs) (a + k) = bs[k]
  | [], _, _, _, _, _, hk => absurd hk (Nat.not_lt_zero _)
  | b :: bs, m, a, hm, ha, 0, _ => by
    simp only [List.length_cons] at ha
    rw [Memory.writeBlock, Memory.read_writeBlock_outside _ _ _ (by omega)]
    exact Memory.read_write_self hm (by omega) b
  | b :: bs, m, a, hm, ha, k + 1, hk => by
    simp only [List.length_cons] at ha hk
    have := Memory.read_writeBlock_inside bs (Memory.write_wf hm a b) (a := a + 1) (by omega) k (by omega)
    rw [Memory.writeBlock, show a + (k + 1) = a + 1 + k by omega, this]
    rfl

@[simp] theorem Memory.length_readBlock (m : Memory) : ∀ (n a : Nat), (Memory.readBlock m a n).length = n
  | 0, _ => rfl
  | n + 1, a => by rw [Memory.readBlock, List.length_cons, Memory.length_readBlock m n]

/-- Byte `k` of a block read is the cell at `a + k`. -/
theorem Memory.getElem_readBlock (m : Memory) : ∀ (n a k : Nat) (hk : k < (Memory.readBlock m a n).length),
    (Memory.readBlock m a n)[k] = Memory.read m (a + k)
  | 0, _, _, hk => absurd hk (Nat.not_lt_zero _)
  | n + 1, a, 0, _ => rfl
  | n + 1, a, k + 1, hk => by
    have hk' : k < (Memory.readBlock m (a + 1) n).length := by
      simpa [Memory.readBlock] using hk
    have := Memory.getElem_readBlock m n (a + 1) k hk'
    rw [show a + (k + 1) = a + 1 + k by omega, ← this]
    rfl

/-- The range check in the spec's words: an empty range is fine, else the last byte must exist (R64). -/
theorem rangeOk_iff (base : Word) (count : Nat) :
    rangeOk base count = true ↔ count = 0 ∨ base.toNat + count - 1 ≤ 0xFFF := by
  rw [rangeOk, decide_eq_true_iff, memSize]
  omega

end Sys2Proof.Machine
end

