-- ==== Sys2Proof/Laws/State.lean ====
section
/-! SUPPORT. One lemma per field per update of the state, so that no later proof unfolds a record update; and what reading
a register gives after a register write. -/

namespace Sys2Proof.Machine

variable (s : State)

/-! `setV` -/

@[simp] theorem State.setV_mem (r : Reg) (b : Byte) : (s.setV r b).mem = s.mem := rfl
@[simp] theorem State.setV_v (r : Reg) (b : Byte) : (s.setV r b).v = s.v.set r.toNat b r.isLt := rfl
@[simp] theorem State.setV_pc (r : Reg) (b : Byte) : (s.setV r b).pc = s.pc := rfl
@[simp] theorem State.setV_i (r : Reg) (b : Byte) : (s.setV r b).i = s.i := rfl
@[simp] theorem State.setV_stack (r : Reg) (b : Byte) : (s.setV r b).stack = s.stack := rfl
@[simp] theorem State.setV_sp (r : Reg) (b : Byte) : (s.setV r b).sp = s.sp := rfl
@[simp] theorem State.setV_dt (r : Reg) (b : Byte) : (s.setV r b).dt = s.dt := rfl
@[simp] theorem State.setV_st (r : Reg) (b : Byte) : (s.setV r b).st = s.st := rfl
@[simp] theorem State.setV_key (r : Reg) (b : Byte) : (s.setV r b).key = s.key := rfl
@[simp] theorem State.setV_fb (r : Reg) (b : Byte) : (s.setV r b).fb = s.fb := rfl
@[simp] theorem State.setV_redraw (r : Reg) (b : Byte) : (s.setV r b).redraw = s.redraw := rfl
@[simp] theorem State.setV_fault (r : Reg) (b : Byte) : (s.setV r b).fault = s.fault := rfl
@[simp] theorem State.setV_resetDone (r : Reg) (b : Byte) : (s.setV r b).resetDone = s.resetDone := rfl
@[simp] theorem State.setV_draws (r : Reg) (b : Byte) : (s.setV r b).draws = s.draws := rfl

/-! `setResultAndFlag` -/

@[simp] theorem State.setResultAndFlag_mem (x : Reg) (b : Byte) (f : Bool) : (s.setResultAndFlag x b f).mem = s.mem := rfl
@[simp] theorem State.setResultAndFlag_v (x : Reg) (b : Byte) (f : Bool) : (s.setResultAndFlag x b f).v = (s.v.set x.toNat b x.isLt).set vf.toNat (flagByte f) vf.isLt := rfl
@[simp] theorem State.setResultAndFlag_pc (x : Reg) (b : Byte) (f : Bool) : (s.setResultAndFlag x b f).pc = s.pc := rfl
@[simp] theorem State.setResultAndFlag_i (x : Reg) (b : Byte) (f : Bool) : (s.setResultAndFlag x b f).i = s.i := rfl
@[simp] theorem State.setResultAndFlag_stack (x : Reg) (b : Byte) (f : Bool) : (s.setResultAndFlag x b f).stack = s.stack := rfl
@[simp] theorem State.setResultAndFlag_sp (x : Reg) (b : Byte) (f : Bool) : (s.setResultAndFlag x b f).sp = s.sp := rfl
@[simp] theorem State.setResultAndFlag_dt (x : Reg) (b : Byte) (f : Bool) : (s.setResultAndFlag x b f).dt = s.dt := rfl
@[simp] theorem State.setResultAndFlag_st (x : Reg) (b : Byte) (f : Bool) : (s.setResultAndFlag x b f).st = s.st := rfl
@[simp] theorem State.setResultAndFlag_key (x : Reg) (b : Byte) (f : Bool) : (s.setResultAndFlag x b f).key = s.key := rfl
@[simp] theorem State.setResultAndFlag_fb (x : Reg) (b : Byte) (f : Bool) : (s.setResultAndFlag x b f).fb = s.fb := rfl
@[simp] theorem State.setResultAndFlag_redraw (x : Reg) (b : Byte) (f : Bool) : (s.setResultAndFlag x b f).redraw = s.redraw := rfl
@[simp] theorem State.setResultAndFlag_fault (x : Reg) (b : Byte) (f : Bool) : (s.setResultAndFlag x b f).fault = s.fault := rfl
@[simp] theorem State.setResultAndFlag_resetDone (x : Reg) (b : Byte) (f : Bool) : (s.setResultAndFlag x b f).resetDone = s.resetDone := rfl
@[simp] theorem State.setResultAndFlag_draws (x : Reg) (b : Byte) (f : Bool) : (s.setResultAndFlag x b f).draws = s.draws := rfl

/-! `advance` -/

@[simp] theorem State.advance_mem : (s.advance).mem = s.mem := rfl
@[simp] theorem State.advance_v : (s.advance).v = s.v := rfl
@[simp] theorem State.advance_pc : (s.advance).pc = s.pc + 2 := rfl
@[simp] theorem State.advance_i : (s.advance).i = s.i := rfl
@[simp] theorem State.advance_stack : (s.advance).stack = s.stack := rfl
@[simp] theorem State.advance_sp : (s.advance).sp = s.sp := rfl
@[simp] theorem State.advance_dt : (s.advance).dt = s.dt := rfl
@[simp] theorem State.advance_st : (s.advance).st = s.st := rfl
@[simp] theorem State.advance_key : (s.advance).key = s.key := rfl
@[simp] theorem State.advance_fb : (s.advance).fb = s.fb := rfl
@[simp] theorem State.advance_redraw : (s.advance).redraw = s.redraw := rfl
@[simp] theorem State.advance_fault : (s.advance).fault = s.fault := rfl
@[simp] theorem State.advance_resetDone : (s.advance).resetDone = s.resetDone := rfl
@[simp] theorem State.advance_draws : (s.advance).draws = s.draws := rfl

/-! `jump` -/

@[simp] theorem State.jump_mem (w : Word) : (s.jump w).mem = s.mem := rfl
@[simp] theorem State.jump_v (w : Word) : (s.jump w).v = s.v := rfl
@[simp] theorem State.jump_pc (w : Word) : (s.jump w).pc = w := rfl
@[simp] theorem State.jump_i (w : Word) : (s.jump w).i = s.i := rfl
@[simp] theorem State.jump_stack (w : Word) : (s.jump w).stack = s.stack := rfl
@[simp] theorem State.jump_sp (w : Word) : (s.jump w).sp = s.sp := rfl
@[simp] theorem State.jump_dt (w : Word) : (s.jump w).dt = s.dt := rfl
@[simp] theorem State.jump_st (w : Word) : (s.jump w).st = s.st := rfl
@[simp] theorem State.jump_key (w : Word) : (s.jump w).key = s.key := rfl
@[simp] theorem State.jump_fb (w : Word) : (s.jump w).fb = s.fb := rfl
@[simp] theorem State.jump_redraw (w : Word) : (s.jump w).redraw = s.redraw := rfl
@[simp] theorem State.jump_fault (w : Word) : (s.jump w).fault = s.fault := rfl
@[simp] theorem State.jump_resetDone (w : Word) : (s.jump w).resetDone = s.resetDone := rfl
@[simp] theorem State.jump_draws (w : Word) : (s.jump w).draws = s.draws := rfl

/-! `skipIf` -/

@[simp] theorem State.skipIf_mem (c : Bool) : (s.skipIf c).mem = s.mem := by cases c <;> rfl
@[simp] theorem State.skipIf_v (c : Bool) : (s.skipIf c).v = s.v := by cases c <;> rfl
@[simp] theorem State.skipIf_pc (c : Bool) : (s.skipIf c).pc = if c then s.pc + 2 else s.pc := by cases c <;> rfl
@[simp] theorem State.skipIf_i (c : Bool) : (s.skipIf c).i = s.i := by cases c <;> rfl
@[simp] theorem State.skipIf_stack (c : Bool) : (s.skipIf c).stack = s.stack := by cases c <;> rfl
@[simp] theorem State.skipIf_sp (c : Bool) : (s.skipIf c).sp = s.sp := by cases c <;> rfl
@[simp] theorem State.skipIf_dt (c : Bool) : (s.skipIf c).dt = s.dt := by cases c <;> rfl
@[simp] theorem State.skipIf_st (c : Bool) : (s.skipIf c).st = s.st := by cases c <;> rfl
@[simp] theorem State.skipIf_key (c : Bool) : (s.skipIf c).key = s.key := by cases c <;> rfl
@[simp] theorem State.skipIf_fb (c : Bool) : (s.skipIf c).fb = s.fb := by cases c <;> rfl
@[simp] theorem State.skipIf_redraw (c : Bool) : (s.skipIf c).redraw = s.redraw := by cases c <;> rfl
@[simp] theorem State.skipIf_fault (c : Bool) : (s.skipIf c).fault = s.fault := by cases c <;> rfl
@[simp] theorem State.skipIf_resetDone (c : Bool) : (s.skipIf c).resetDone = s.resetDone := by cases c <;> rfl
@[simp] theorem State.skipIf_draws (c : Bool) : (s.skipIf c).draws = s.draws := by cases c <;> rfl

/-! `tickTimers` -/

@[simp] theorem State.tickTimers_mem : (s.tickTimers).mem = s.mem := rfl
@[simp] theorem State.tickTimers_v : (s.tickTimers).v = s.v := rfl
@[simp] theorem State.tickTimers_pc : (s.tickTimers).pc = s.pc := rfl
@[simp] theorem State.tickTimers_i : (s.tickTimers).i = s.i := rfl
@[simp] theorem State.tickTimers_stack : (s.tickTimers).stack = s.stack := rfl
@[simp] theorem State.tickTimers_sp : (s.tickTimers).sp = s.sp := rfl
@[simp] theorem State.tickTimers_dt : (s.tickTimers).dt = countDown s.dt := rfl
@[simp] theorem State.tickTimers_st : (s.tickTimers).st = countDown s.st := rfl
@[simp] theorem State.tickTimers_key : (s.tickTimers).key = s.key := rfl
@[simp] theorem State.tickTimers_fb : (s.tickTimers).fb = s.fb := rfl
@[simp] theorem State.tickTimers_redraw : (s.tickTimers).redraw = s.redraw := rfl
@[simp] theorem State.tickTimers_fault : (s.tickTimers).fault = s.fault := rfl
@[simp] theorem State.tickTimers_resetDone : (s.tickTimers).resetDone = s.resetDone := rfl
@[simp] theorem State.tickTimers_draws : (s.tickTimers).draws = s.draws := rfl

/-! `raiseFault` -/

@[simp] theorem State.raiseFault_mem (c : FaultCause) : (s.raiseFault c).mem = s.mem := rfl
@[simp] theorem State.raiseFault_v (c : FaultCause) : (s.raiseFault c).v = s.v := rfl
@[simp] theorem State.raiseFault_pc (c : FaultCause) : (s.raiseFault c).pc = s.pc := rfl
@[simp] theorem State.raiseFault_i (c : FaultCause) : (s.raiseFault c).i = s.i := rfl
@[simp] theorem State.raiseFault_stack (c : FaultCause) : (s.raiseFault c).stack = s.stack := rfl
@[simp] theorem State.raiseFault_sp (c : FaultCause) : (s.raiseFault c).sp = s.sp := rfl
@[simp] theorem State.raiseFault_dt (c : FaultCause) : (s.raiseFault c).dt = s.dt := rfl
@[simp] theorem State.raiseFault_st (c : FaultCause) : (s.raiseFault c).st = s.st := rfl
@[simp] theorem State.raiseFault_key (c : FaultCause) : (s.raiseFault c).key = s.key := rfl
@[simp] theorem State.raiseFault_fb (c : FaultCause) : (s.raiseFault c).fb = s.fb := rfl
@[simp] theorem State.raiseFault_redraw (c : FaultCause) : (s.raiseFault c).redraw = s.redraw := rfl
@[simp] theorem State.raiseFault_fault (c : FaultCause) : (s.raiseFault c).fault = ⟨true, c⟩ := rfl
@[simp] theorem State.raiseFault_resetDone (c : FaultCause) : (s.raiseFault c).resetDone = s.resetDone := rfl
@[simp] theorem State.raiseFault_draws (c : FaultCause) : (s.raiseFault c).draws = s.draws := rfl

/-! `drawRandom` -/

@[simp] theorem State.drawRandom_mem : (s.drawRandom.2).mem = s.mem := rfl
@[simp] theorem State.drawRandom_v : (s.drawRandom.2).v = s.v := rfl
@[simp] theorem State.drawRandom_pc : (s.drawRandom.2).pc = s.pc := rfl
@[simp] theorem State.drawRandom_i : (s.drawRandom.2).i = s.i := rfl
@[simp] theorem State.drawRandom_stack : (s.drawRandom.2).stack = s.stack := rfl
@[simp] theorem State.drawRandom_sp : (s.drawRandom.2).sp = s.sp := rfl
@[simp] theorem State.drawRandom_dt : (s.drawRandom.2).dt = s.dt := rfl
@[simp] theorem State.drawRandom_st : (s.drawRandom.2).st = s.st := rfl
@[simp] theorem State.drawRandom_key : (s.drawRandom.2).key = s.key := rfl
@[simp] theorem State.drawRandom_fb : (s.drawRandom.2).fb = s.fb := rfl
@[simp] theorem State.drawRandom_redraw : (s.drawRandom.2).redraw = s.redraw := rfl
@[simp] theorem State.drawRandom_fault : (s.drawRandom.2).fault = s.fault := rfl
@[simp] theorem State.drawRandom_resetDone : (s.drawRandom.2).resetDone = s.resetDone := rfl
@[simp] theorem State.drawRandom_draws : (s.drawRandom.2).draws = s.draws + 1 := rfl

/-! `placeAtPc` -/

@[simp] theorem State.placeAtPc_mem (bs : List Byte) : (s.placeAtPc bs).mem = Memory.writeBlock s.mem s.pc.toNat bs := rfl
@[simp] theorem State.placeAtPc_v (bs : List Byte) : (s.placeAtPc bs).v = s.v := rfl
@[simp] theorem State.placeAtPc_pc (bs : List Byte) : (s.placeAtPc bs).pc = s.pc := rfl
@[simp] theorem State.placeAtPc_i (bs : List Byte) : (s.placeAtPc bs).i = s.i := rfl
@[simp] theorem State.placeAtPc_stack (bs : List Byte) : (s.placeAtPc bs).stack = s.stack := rfl
@[simp] theorem State.placeAtPc_sp (bs : List Byte) : (s.placeAtPc bs).sp = s.sp := rfl
@[simp] theorem State.placeAtPc_dt (bs : List Byte) : (s.placeAtPc bs).dt = s.dt := rfl
@[simp] theorem State.placeAtPc_st (bs : List Byte) : (s.placeAtPc bs).st = s.st := rfl
@[simp] theorem State.placeAtPc_key (bs : List Byte) : (s.placeAtPc bs).key = s.key := rfl
@[simp] theorem State.placeAtPc_fb (bs : List Byte) : (s.placeAtPc bs).fb = s.fb := rfl
@[simp] theorem State.placeAtPc_redraw (bs : List Byte) : (s.placeAtPc bs).redraw = s.redraw := rfl
@[simp] theorem State.placeAtPc_fault (bs : List Byte) : (s.placeAtPc bs).fault = s.fault := rfl
@[simp] theorem State.placeAtPc_resetDone (bs : List Byte) : (s.placeAtPc bs).resetDone = s.resetDone := rfl
@[simp] theorem State.placeAtPc_draws (bs : List Byte) : (s.placeAtPc bs).draws = s.draws := rfl

/-! `loaded` -/

@[simp] theorem State.loaded_mem (bs : List Byte) : (s.loaded bs).mem = if imageFits bs then Memory.writeBlock s.mem progBase bs else s.mem := by unfold State.loaded; split <;> rfl
@[simp] theorem State.loaded_v (bs : List Byte) : (s.loaded bs).v = s.v := by unfold State.loaded; split <;> rfl
@[simp] theorem State.loaded_pc (bs : List Byte) : (s.loaded bs).pc = s.pc := by unfold State.loaded; split <;> rfl
@[simp] theorem State.loaded_i (bs : List Byte) : (s.loaded bs).i = s.i := by unfold State.loaded; split <;> rfl
@[simp] theorem State.loaded_stack (bs : List Byte) : (s.loaded bs).stack = s.stack := by unfold State.loaded; split <;> rfl
@[simp] theorem State.loaded_sp (bs : List Byte) : (s.loaded bs).sp = s.sp := by unfold State.loaded; split <;> rfl
@[simp] theorem State.loaded_dt (bs : List Byte) : (s.loaded bs).dt = s.dt := by unfold State.loaded; split <;> rfl
@[simp] theorem State.loaded_st (bs : List Byte) : (s.loaded bs).st = s.st := by unfold State.loaded; split <;> rfl
@[simp] theorem State.loaded_key (bs : List Byte) : (s.loaded bs).key = s.key := by unfold State.loaded; split <;> rfl
@[simp] theorem State.loaded_fb (bs : List Byte) : (s.loaded bs).fb = s.fb := by unfold State.loaded; split <;> rfl
@[simp] theorem State.loaded_redraw (bs : List Byte) : (s.loaded bs).redraw = s.redraw := by unfold State.loaded; split <;> rfl
@[simp] theorem State.loaded_fault (bs : List Byte) : (s.loaded bs).fault = s.fault := by unfold State.loaded; split <;> rfl
@[simp] theorem State.loaded_resetDone (bs : List Byte) : (s.loaded bs).resetDone = s.resetDone := by unfold State.loaded; split <;> rfl
@[simp] theorem State.loaded_draws (bs : List Byte) : (s.loaded bs).draws = s.draws := by unfold State.loaded; split <;> rfl

/-! `resetAgain` -/

@[simp] theorem State.resetAgain_mem : s.resetAgain.mem = State.reset.mem := rfl
@[simp] theorem State.resetAgain_v : s.resetAgain.v = State.reset.v := rfl
@[simp] theorem State.resetAgain_pc : s.resetAgain.pc = State.reset.pc := rfl
@[simp] theorem State.resetAgain_i : s.resetAgain.i = State.reset.i := rfl
@[simp] theorem State.resetAgain_stack : s.resetAgain.stack = State.reset.stack := rfl
@[simp] theorem State.resetAgain_sp : s.resetAgain.sp = State.reset.sp := rfl
@[simp] theorem State.resetAgain_dt : s.resetAgain.dt = State.reset.dt := rfl
@[simp] theorem State.resetAgain_st : s.resetAgain.st = State.reset.st := rfl
@[simp] theorem State.resetAgain_key : s.resetAgain.key = State.reset.key := rfl
@[simp] theorem State.resetAgain_fb : s.resetAgain.fb = State.reset.fb := rfl
@[simp] theorem State.resetAgain_redraw : s.resetAgain.redraw = State.reset.redraw := rfl
@[simp] theorem State.resetAgain_fault : s.resetAgain.fault = State.reset.fault := rfl
@[simp] theorem State.resetAgain_resetDone : s.resetAgain.resetDone = State.reset.resetDone := rfl
@[simp] theorem State.resetAgain_draws : s.resetAgain.draws = s.draws := rfl

/-! Registers -/

theorem Reg.toNat_ne {r q : Reg} (h : r ≠ q) : r.toNat ≠ q.toNat := fun e => h (BitVec.eq_of_toNat_eq e)

/-- A register read depends on the registers alone. -/
theorem State.getV_congr {s t : State} (h : t.v = s.v) (r : Reg) : t.getV r = s.getV r := by
  simp only [State.getV, h]

@[simp] theorem State.getV_setV_self (r : Reg) (b : Byte) : (s.setV r b).getV r = b := by
  simp [State.getV, State.setV]

theorem State.getV_setV_of_ne {r q : Reg} (h : r ≠ q) (b : Byte) : (s.setV q b).getV r = s.getV r := by
  simp [State.getV, State.setV, (Reg.toNat_ne h).symm]

@[simp] theorem State.getV_advance (r : Reg) : s.advance.getV r = s.getV r := rfl
@[simp] theorem State.getV_jump (w : Word) (r : Reg) : (s.jump w).getV r = s.getV r := rfl
@[simp] theorem State.getV_tickTimers (r : Reg) : s.tickTimers.getV r = s.getV r := rfl
@[simp] theorem State.getV_raiseFault (c : FaultCause) (r : Reg) : (s.raiseFault c).getV r = s.getV r := rfl
@[simp] theorem State.getV_drawRandom (r : Reg) : s.drawRandom.2.getV r = s.getV r := rfl
@[simp] theorem State.getV_skipIf (c : Bool) (r : Reg) : (s.skipIf c).getV r = s.getV r := by cases c <;> rfl

/-- The flag is written last, so VF holds the flag whatever `x` is (R23). -/
@[simp] theorem State.getV_setResultAndFlag_vf (x : Reg) (b : Byte) (f : Bool) :
    (s.setResultAndFlag x b f).getV vf = flagByte f := State.getV_setV_self _ _ _

/-- Vx holds the result unless it is VF (R23). -/
theorem State.getV_setResultAndFlag_of_ne_vf {x : Reg} (h : x ≠ vf) (b : Byte) (f : Bool) :
    (s.setResultAndFlag x b f).getV x = b := by
  rw [State.setResultAndFlag, State.getV_setV_of_ne _ h, State.getV_setV_self]

/-- No register but Vx and VF changes. -/
theorem State.getV_setResultAndFlag_other {x r : Reg} (hx : r ≠ x) (hf : r ≠ vf) (b : Byte) (f : Bool) :
    (s.setResultAndFlag x b f).getV r = s.getV r := by
  rw [State.setResultAndFlag, State.getV_setV_of_ne _ hf, State.getV_setV_of_ne _ hx]

end Sys2Proof.Machine
end

