-- ==== Sys2Proof/Laws/Ops.lean ====
section
/-! SUPPORT. What each shared operation can do, said once. -/

namespace Sys2Proof.Machine

/-! ## Call stack -/

/-- A push with room: the entry at SP, SP one higher (R122). -/
theorem State.push?_of_lt (s : State) (w : Word) (h : s.sp.val < 16) :
    s.push? w = some { s with stack := s.stack.set s.sp.val w h, sp := ⟨s.sp.val + 1, Nat.succ_lt_succ h⟩ } :=
  dif_pos h

/-- There is no room exactly at SP = 16 (R122). -/
theorem State.push?_eq_none (s : State) (w : Word) : s.push? w = none ↔ s.sp.val = 16 := by
  have := s.sp.isLt
  unfold State.push? stackDepth
  split <;> simp <;> omega

/-- A pop gives the entry below SP and leaves the stack's entries (R120). -/
theorem State.pop?_of_pos (s : State) (h : 0 < s.sp.val) :
    s.pop? = some (s.stack[s.sp.val - 1]'(by have := s.sp.isLt; omega),
      { s with sp := ⟨s.sp.val - 1, by have := s.sp.isLt; omega⟩ }) := by
  obtain ⟨mem, v, pc, i, stack, ⟨sp, hsp⟩, rest⟩ := s
  cases sp with
  | zero => exact absurd h (Nat.lt_irrefl 0)
  | succ k => rfl

/-- There is nothing to pop exactly at SP = 0 (R120). -/
theorem State.pop?_eq_none (s : State) : s.pop? = none ↔ s.sp.val = 0 := by
  obtain ⟨mem, v, pc, i, stack, ⟨sp, hsp⟩, rest⟩ := s
  cases sp with
  | zero => simp [State.pop?]
  | succ k => simp [State.pop?]

/-! ## Keypad -/

theorem State.keyDown_of_lt (s : State) {k : Nat} (h : k < 16) : s.keyDown k = s.key[k] := by
  simp [State.keyDown, h]

/-- The scan finds the least pressed key (R177). -/
theorem State.firstKey_eq_some (s : State) (k : Nat) :
    s.firstKey = some k ↔ k < 16 ∧ s.keyDown k = true ∧ ∀ j, j < k → s.keyDown j = false := by
  simp only [State.firstKey, List.find?_range_eq_some, List.mem_range, Bool.not_eq_true']
  tauto

/-- The scan finds nothing exactly when no key is pressed (R177). -/
theorem State.firstKey_eq_none (s : State) : s.firstKey = none ↔ ∀ k, k < 16 → s.keyDown k = false := by
  simp [State.firstKey]

/-! ## Register blocks -/

@[simp] theorem State.length_regsUpTo (s : State) (x : Reg) : (s.regsUpTo x).length = x.toNat + 1 := by
  have := x.isLt
  simp [State.regsUpTo]
  omega

/-- Byte `k` of the stored block is Vk (R165). -/
theorem State.getElem_regsUpTo (s : State) (x : Reg) (k : Nat) (hk : k < (s.regsUpTo x).length) (h : k < 16) :
    (s.regsUpTo x)[k] = s.v[k] := by
  simp [State.regsUpTo]

/-- The loaded block fills the registers from `a` upward and leaves the others (R166). -/
theorem getElem_putRegs : ∀ (bs : List Byte) (v : Vector Byte 16) (a k : Nat) (hk : k < 16),
    (putRegs v a bs)[k] = if h : a ≤ k ∧ k < a + bs.length then bs[k - a]'(by omega) else v[k]
  | [], v, a, k, hk => by
    rw [dif_neg (by simp only [List.length_nil]; omega)]
    rfl
  | b :: bs, v, a, k, hk => by
    rw [putRegs, getElem_putRegs bs]
    by_cases h1 : a + 1 ≤ k ∧ k < a + 1 + bs.length
    · rw [dif_pos h1, dif_pos ⟨by omega, by simp only [List.length_cons]; omega⟩]
      obtain ⟨j, rfl⟩ : ∃ j, k = a + 1 + j := ⟨k - (a + 1), by omega⟩
      simp [show a + 1 + j - a = j + 1 by omega]
    · rw [dif_neg h1]
      by_cases h2 : a = k
      · subst h2
        simp
      · rw [dif_neg (by simp only [List.length_cons]; omega)]
        simp [h2]

/-! ## Range checks -/

theorem State.withRange_of_ok {s : State} {count : Nat} (h : rangeOk s.i count = true) (t : State) :
    s.withRange count t = .next t := if_pos h

theorem State.withRange_of_bad {s : State} {count : Nat} (h : rangeOk s.i count = false) (t : State) :
    s.withRange count t = .next (s.raiseFault .memRange) := by
  rw [State.withRange, if_neg (by simp [h])]

/-- A data access answers its effect or the fault, and nothing else (R64). -/
theorem State.withRange_cases (s : State) (count : Nat) (t : State) :
    (rangeOk s.i count = true ∧ s.withRange count t = .next t) ∨
      (rangeOk s.i count = false ∧ s.withRange count t = .next (s.raiseFault .memRange)) := by
  cases h : rangeOk s.i count
  · exact .inr ⟨rfl, State.withRange_of_bad h t⟩
  · exact .inl ⟨rfl, State.withRange_of_ok h t⟩

/-- A keypad access answers its effect or the fault, and nothing else (R175). -/
theorem State.withKeyRange_cases (s : State) (k : Nat) (t : State) :
    (k ≤ 0xF ∧ s.withKeyRange k t = .next t) ∨ (0xF < k ∧ s.withKeyRange k t = .next (s.raiseFault .keyRange)) := by
  unfold State.withKeyRange
  split
  · exact .inl ⟨by assumption, rfl⟩
  · exact .inr ⟨by omega, rfl⟩

/-! ## Timers -/

/-- One less, and zero stays zero (R211). -/
theorem toNat_countDown (b : Byte) : (countDown b).toNat = b.toNat - 1 := by
  unfold countDown
  split
  · next h => simp [h]
  · next h =>
    have : b.toNat ≠ 0 := fun e => h (BitVec.eq_of_toNat_eq e)
    have := b.isLt
    rw [BitVec.toNat_sub]
    simp
    omega

/-! ## The framebuffer -/

/-- The cells the set bits of a sprite's row `r` land on. -/
def rowCells (m : Memory) (base x0 y0 r : Nat) : List (Fin 2048) :=
  ((List.range 8).filter fun c => (Memory.read m (base + r)).getLsbD (7 - c)).map (spriteCell x0 y0 r)

/-- The cells the set bits of a sprite land on, in drawing order. -/
def spriteCells (m : Memory) (base x0 y0 n : Nat) : List (Fin 2048) :=
  (List.range n).flatMap (rowCells m base x0 y0)

theorem mem_spriteCells {m : Memory} {base x0 y0 n : Nat} {k : Fin 2048} :
    k ∈ spriteCells m base x0 y0 n ↔
      ∃ r c, r < n ∧ c < 8 ∧ (Memory.read m (base + r)).getLsbD (7 - c) = true ∧ spriteCell x0 y0 r c = k := by
  simp only [spriteCells, rowCells, List.mem_flatMap, List.mem_range, List.mem_map, List.mem_filter]
  constructor
  · rintro ⟨r, hr, c, ⟨hc, hb⟩, rfl⟩
    exact ⟨r, c, hr, hc, hb, rfl⟩
  · rintro ⟨r, c, hr, hc, hb, rfl⟩
    exact ⟨r, hr, c, ⟨hc, hb⟩, rfl⟩

/-- "No two pixels of one sprite land on the same cell" (R182). -/
theorem spriteCell_inj {x0 y0 r c r' c' : Nat} (hr : r < 32) (hr' : r' < 32) (hc : c < 8) (hc' : c' < 8)
    (h : spriteCell x0 y0 r c = spriteCell x0 y0 r' c') : r = r' ∧ c = c' := by
  have := congrArg Fin.val h
  simp only [spriteCell] at this
  omega

theorem spriteCells_nodup (m : Memory) (base x0 y0 : Nat) {n : Nat} (hn : n ≤ 32) :
    (spriteCells m base x0 y0 n).Nodup := by
  refine List.nodup_flatMap.2 ⟨fun r hr => ?_, ?_⟩
  · have hr := List.mem_range.1 hr
    refine List.Nodup.map_on (fun c hc c' hc' h => ?_) (List.nodup_range.filter _)
    have hc := List.mem_range.1 (List.mem_filter.1 hc).1
    have hc' := List.mem_range.1 (List.mem_filter.1 hc').1
    exact (spriteCell_inj (by omega) (by omega) hc hc' h).2
  · refine List.Pairwise.imp_of_mem (fun {r r'} hr hr' hne => ?_) (List.nodup_range (n := n))
    have hr := List.mem_range.1 hr
    have hr' := List.mem_range.1 hr'
    intro k hk hk'
    obtain ⟨c, hc, rfl⟩ := List.mem_map.1 hk
    obtain ⟨c', hc', h⟩ := List.mem_map.1 hk'
    have hc := List.mem_range.1 (List.mem_filter.1 hc).1
    have hc' := List.mem_range.1 (List.mem_filter.1 hc').1
    exact hne (spriteCell_inj (by omega) (by omega) hc' hc h).1.symm

theorem drawRows_eq_foldl (m : Memory) (base x0 y0 n : Nat) (d : Framebuffer × Bool) :
    drawRows m base x0 y0 n d = (spriteCells m base x0 y0 n).foldl togglePixel d := by
  simp only [drawRows, drawRow, spriteCells, rowCells, List.foldl_flatMap, List.foldl_map, List.foldl_filter]

/-- Toggling distinct cells: each of them flips, the others stay, and the flag tells whether one of them was lit. -/
theorem foldl_togglePixel : ∀ (L : List (Fin 2048)) (d : Framebuffer × Bool), L.Nodup →
    (∀ k : Fin 2048, (L.foldl togglePixel d).1[k] = if k ∈ L then !d.1[k] else d.1[k]) ∧
      (L.foldl togglePixel d).2 = (d.2 || L.any fun k => d.1[k])
  | [], d, _ => by simp
  | a :: L, d, h => by
    obtain ⟨ha, hL⟩ := List.nodup_cons.1 h
    obtain ⟨h1, h2⟩ := foldl_togglePixel L (togglePixel d a) hL
    have key : ∀ k : Fin 2048, (togglePixel d a).1[k] = if k = a then !d.1[a] else d.1[k] := by
      intro k
      by_cases hk : k = a
      · subst hk
        simp [togglePixel]
      · have : a.val ≠ k.val := fun e => hk (Fin.ext e.symm)
        simp [togglePixel, this, hk]
    refine ⟨fun k => ?_, ?_⟩
    · rw [List.foldl_cons, h1, key]
      by_cases hk : k = a
      · subst hk
        simp [ha]
      · simp [hk]
    · rw [List.foldl_cons, h2, List.any_cons, ← Bool.or_assoc]
      have : (L.any fun k => (togglePixel d a).1[k]) = L.any fun k => d.1[k] := by
        apply Bool.eq_iff_iff.2
        simp only [List.any_eq_true]
        refine exists_congr fun k => and_congr_right fun hk => ?_
        rw [key, if_neg (by rintro rfl; exact ha hk)]
      rw [this]
      rfl

/-- What a draw of at most 32 rows does: the cells under a set bit flip and no other does, and the flag tells whether one
of them was lit before (R182). -/
theorem drawRows_spec (m : Memory) (base x0 y0 : Nat) {n : Nat} (hn : n ≤ 32) (fb : Framebuffer) :
    (∀ k : Fin 2048, (drawRows m base x0 y0 n (fb, false)).1[k] =
        if k ∈ spriteCells m base x0 y0 n then !fb[k] else fb[k]) ∧
      (drawRows m base x0 y0 n (fb, false)).2 = (spriteCells m base x0 y0 n).any fun k => fb[k] := by
  rw [drawRows_eq_foldl]
  obtain ⟨h1, h2⟩ := foldl_togglePixel _ (fb, false) (spriteCells_nodup m base x0 y0 hn)
  exact ⟨h1, by rw [h2, Bool.false_or]⟩

/-! ## The step's frame -/

theorem State.stepWith_beforeReset {s : State} (h : s.resetDone = false) (run : State → Result) :
    s.stepWith run = .refused .beforeReset := by simp [State.stepWith, h]

theorem State.stepWith_faulted {s : State} (h : s.resetDone = true) (hf : s.fault.valid = true)
    (run : State → Result) : s.stepWith run = .next s := by simp [State.stepWith, h, hf]

theorem State.stepWith_outOfRange {s : State} (h : s.resetDone = true) (hf : s.fault.valid = false)
    (hp : 0xFFE < s.pc.toNat) (run : State → Result) : s.stepWith run = .next (s.raiseFault .fetchRange) := by
  simp [State.stepWith, h, hf, State.canFetch, Nat.not_le.2 hp]

theorem State.stepWith_run {s : State} (h : s.resetDone = true) (hf : s.fault.valid = false)
    (hp : s.pc.toNat ≤ 0xFFE) (run : State → Result) : s.stepWith run = endOfStep (run s) := by
  simp [State.stepWith, h, hf, State.canFetch, hp]

/-- Everything a step can be (R35, R204, R64, R100). -/
theorem State.stepWith_cases (s : State) (run : State → Result) :
    (s.resetDone = false ∧ s.stepWith run = .refused .beforeReset) ∨
    (s.resetDone = true ∧ s.fault.valid = true ∧ s.stepWith run = .next s) ∨
    (s.resetDone = true ∧ s.fault.valid = false ∧ 0xFFE < s.pc.toNat ∧
      s.stepWith run = .next (s.raiseFault .fetchRange)) ∨
    (s.resetDone = true ∧ s.fault.valid = false ∧ s.pc.toNat ≤ 0xFFE ∧ s.stepWith run = endOfStep (run s)) := by
  cases h : s.resetDone
  · exact .inl ⟨rfl, State.stepWith_beforeReset h run⟩
  · cases hf : s.fault.valid
    · rcases Nat.lt_or_ge 0xFFE s.pc.toNat with hp | hp
      · exact .inr (.inr (.inl ⟨rfl, rfl, hp, State.stepWith_outOfRange h hf hp run⟩))
      · exact .inr (.inr (.inr ⟨rfl, rfl, hp, State.stepWith_run h hf hp run⟩))
    · exact .inr (.inl ⟨rfl, rfl, State.stepWith_faulted h hf run⟩)

theorem endOfStep_of_faulted {t : State} (h : t.fault.valid = true) : endOfStep (.next t) = .next t := by
  simp [endOfStep, h]

theorem endOfStep_of_running {t : State} (h : t.fault.valid = false) :
    endOfStep (.next t) = .next t.tickTimers := by simp [endOfStep, h]

end Sys2Proof.Machine
end

