-- ==== Sys2Proof/Laws/PerInstr.lean ====
section
/-! SUPPORT. Statements for all instructions, one lemma per constructor: an instruction's word is in its row of the opcode
map, `w & mask == match` (R96). -/

namespace Sys2Proof.Laws

/-- The word of the instruction, cut down to its row's mask, is the row's match (R96). -/
def RowMatch.Statement (i : Instr) : Prop := encode i &&& (rowOf i).1 = (rowOf i).2

theorem RowMatch.cls : RowMatch.Statement (.cls) := by
  rw [RowMatch.Statement, encode, rowOf]
  decide

theorem RowMatch.ret : RowMatch.Statement (.ret) := by
  rw [RowMatch.Statement, encode, rowOf]
  decide

theorem RowMatch.jpNnn (nnn : Addr) : RowMatch.Statement (.jpNnn nnn) := by
  rw [RowMatch.Statement, encode, rowOf, wordNNN_and_F000]
  decide

theorem RowMatch.callNnn (nnn : Addr) : RowMatch.Statement (.callNnn nnn) := by
  rw [RowMatch.Statement, encode, rowOf, wordNNN_and_F000]
  decide

theorem RowMatch.seVxNn (x : Reg) (nn : Byte) : RowMatch.Statement (.seVxNn x nn) := by
  rw [RowMatch.Statement, encode, rowOf, wordXNN_and_F000]
  decide

theorem RowMatch.sneVxNn (x : Reg) (nn : Byte) : RowMatch.Statement (.sneVxNn x nn) := by
  rw [RowMatch.Statement, encode, rowOf, wordXNN_and_F000]
  decide

theorem RowMatch.seVxVy (x y : Reg) : RowMatch.Statement (.seVxVy x y) := by
  rw [RowMatch.Statement, encode, rowOf, wordXYN_and_F00F]
  decide

theorem RowMatch.ldVxNn (x : Reg) (nn : Byte) : RowMatch.Statement (.ldVxNn x nn) := by
  rw [RowMatch.Statement, encode, rowOf, wordXNN_and_F000]
  decide

theorem RowMatch.addVxNn (x : Reg) (nn : Byte) : RowMatch.Statement (.addVxNn x nn) := by
  rw [RowMatch.Statement, encode, rowOf, wordXNN_and_F000]
  decide

theorem RowMatch.ldVxVy (x y : Reg) : RowMatch.Statement (.ldVxVy x y) := by
  rw [RowMatch.Statement, encode, rowOf, wordXYN_and_F00F]
  decide

theorem RowMatch.orVxVy (x y : Reg) : RowMatch.Statement (.orVxVy x y) := by
  rw [RowMatch.Statement, encode, rowOf, wordXYN_and_F00F]
  decide

theorem RowMatch.andVxVy (x y : Reg) : RowMatch.Statement (.andVxVy x y) := by
  rw [RowMatch.Statement, encode, rowOf, wordXYN_and_F00F]
  decide

theorem RowMatch.xorVxVy (x y : Reg) : RowMatch.Statement (.xorVxVy x y) := by
  rw [RowMatch.Statement, encode, rowOf, wordXYN_and_F00F]
  decide

theorem RowMatch.addVxVy (x y : Reg) : RowMatch.Statement (.addVxVy x y) := by
  rw [RowMatch.Statement, encode, rowOf, wordXYN_and_F00F]
  decide

theorem RowMatch.subVxVy (x y : Reg) : RowMatch.Statement (.subVxVy x y) := by
  rw [RowMatch.Statement, encode, rowOf, wordXYN_and_F00F]
  decide

theorem RowMatch.shrVx (x y : Reg) : RowMatch.Statement (.shrVx x y) := by
  rw [RowMatch.Statement, encode, rowOf, wordXYN_and_F00F]
  decide

theorem RowMatch.subnVxVy (x y : Reg) : RowMatch.Statement (.subnVxVy x y) := by
  rw [RowMatch.Statement, encode, rowOf, wordXYN_and_F00F]
  decide

theorem RowMatch.shlVx (x y : Reg) : RowMatch.Statement (.shlVx x y) := by
  rw [RowMatch.Statement, encode, rowOf, wordXYN_and_F00F]
  decide

theorem RowMatch.sneVxVy (x y : Reg) : RowMatch.Statement (.sneVxVy x y) := by
  rw [RowMatch.Statement, encode, rowOf, wordXYN_and_F00F]
  decide

theorem RowMatch.ldINnn (nnn : Addr) : RowMatch.Statement (.ldINnn nnn) := by
  rw [RowMatch.Statement, encode, rowOf, wordNNN_and_F000]
  decide

theorem RowMatch.jpV0Nnn (nnn : Addr) : RowMatch.Statement (.jpV0Nnn nnn) := by
  rw [RowMatch.Statement, encode, rowOf, wordNNN_and_F000]
  decide

theorem RowMatch.rndVxNn (x : Reg) (nn : Byte) : RowMatch.Statement (.rndVxNn x nn) := by
  rw [RowMatch.Statement, encode, rowOf, wordXNN_and_F000]
  decide

theorem RowMatch.drwVxVyN (x y : Reg) (n : Nat) : RowMatch.Statement (.drwVxVyN x y n) := by
  rw [RowMatch.Statement, encode, rowOf, wordXYN_and_F000]
  decide

theorem RowMatch.skpVx (x : Reg) : RowMatch.Statement (.skpVx x) := by
  rw [RowMatch.Statement, encode, rowOf, wordXNN_and_F0FF]
  decide

theorem RowMatch.sknpVx (x : Reg) : RowMatch.Statement (.sknpVx x) := by
  rw [RowMatch.Statement, encode, rowOf, wordXNN_and_F0FF]
  decide

theorem RowMatch.ldVxDt (x : Reg) : RowMatch.Statement (.ldVxDt x) := by
  rw [RowMatch.Statement, encode, rowOf, wordXNN_and_F0FF]
  decide

theorem RowMatch.ldVxK (x : Reg) : RowMatch.Statement (.ldVxK x) := by
  rw [RowMatch.Statement, encode, rowOf, wordXNN_and_F0FF]
  decide

theorem RowMatch.ldDtVx (x : Reg) : RowMatch.Statement (.ldDtVx x) := by
  rw [RowMatch.Statement, encode, rowOf, wordXNN_and_F0FF]
  decide

theorem RowMatch.ldStVx (x : Reg) : RowMatch.Statement (.ldStVx x) := by
  rw [RowMatch.Statement, encode, rowOf, wordXNN_and_F0FF]
  decide

theorem RowMatch.addIVx (x : Reg) : RowMatch.Statement (.addIVx x) := by
  rw [RowMatch.Statement, encode, rowOf, wordXNN_and_F0FF]
  decide

theorem RowMatch.ldFVx (x : Reg) : RowMatch.Statement (.ldFVx x) := by
  rw [RowMatch.Statement, encode, rowOf, wordXNN_and_F0FF]
  decide

theorem RowMatch.ldBVx (x : Reg) : RowMatch.Statement (.ldBVx x) := by
  rw [RowMatch.Statement, encode, rowOf, wordXNN_and_F0FF]
  decide

theorem RowMatch.ldMemVx (x : Reg) : RowMatch.Statement (.ldMemVx x) := by
  rw [RowMatch.Statement, encode, rowOf, wordXNN_and_F0FF]
  decide

theorem RowMatch.ldVxMem (x : Reg) : RowMatch.Statement (.ldVxMem x) := by
  rw [RowMatch.Statement, encode, rowOf, wordXNN_and_F0FF]
  decide

end Sys2Proof.Laws
end

