-- ==== Sys2Proof/Tests/Slice0.lean ====
section
/-! SUPPORT. The model's own tests. Expected results are those of 95_test_vectors.md (E, T, A, M, K, W, H vectors) or the
examples of the rules, never the model's own answers. -/

namespace Sys2Proof.Tests

open Sys2Proof Sys2Proof.Machine

/-! ## Every constructor's word, its bits written out from the encoding of its row: x = 1010, y = 0101, n = 1111,
nn = 11000011, nnn = 100000000001 -/

/-- `00E0`: bits 0000000011100000 (R181). -/
theorem test_decode_cls :
    decodeTableWord 16 0b0000000011100000 = some (.cls) := by decide

/-- `00EE`: bits 0000000011101110 (R120). -/
theorem test_decode_ret :
    decodeTableWord 16 0b0000000011101110 = some (.ret) := by decide

/-- `1nnn`: bits 0001nnnnnnnnnnnn (R121). -/
theorem test_decode_jpNnn :
    decodeTableWord 16 0b0001100000000001 = some (.jpNnn 0b100000000001#12) := by decide

/-- `2nnn`: bits 0010nnnnnnnnnnnn (R122). -/
theorem test_decode_callNnn :
    decodeTableWord 16 0b0010100000000001 = some (.callNnn 0b100000000001#12) := by decide

/-- `3xnn`: bits 0011xxxxnnnnnnnn (R131). -/
theorem test_decode_seVxNn :
    decodeTableWord 16 0b0011101011000011 = some (.seVxNn 0b1010#4 0b11000011#8) := by decide

/-- `4xnn`: bits 0100xxxxnnnnnnnn (R132). -/
theorem test_decode_sneVxNn :
    decodeTableWord 16 0b0100101011000011 = some (.sneVxNn 0b1010#4 0b11000011#8) := by decide

/-- `5xy0`: bits 0101xxxxyyyy0000 (R133). -/
theorem test_decode_seVxVy :
    decodeTableWord 16 0b0101101001010000 = some (.seVxVy 0b1010#4 0b0101#4) := by decide

/-- `6xnn`: bits 0110xxxxnnnnnnnn (R141). -/
theorem test_decode_ldVxNn :
    decodeTableWord 16 0b0110101011000011 = some (.ldVxNn 0b1010#4 0b11000011#8) := by decide

/-- `7xnn`: bits 0111xxxxnnnnnnnn (R142). -/
theorem test_decode_addVxNn :
    decodeTableWord 16 0b0111101011000011 = some (.addVxNn 0b1010#4 0b11000011#8) := by decide

/-- `8xy0`: bits 1000xxxxyyyy0000 (R143). -/
theorem test_decode_ldVxVy :
    decodeTableWord 16 0b1000101001010000 = some (.ldVxVy 0b1010#4 0b0101#4) := by decide

/-- `8xy1`: bits 1000xxxxyyyy0001 (R144). -/
theorem test_decode_orVxVy :
    decodeTableWord 16 0b1000101001010001 = some (.orVxVy 0b1010#4 0b0101#4) := by decide

/-- `8xy2`: bits 1000xxxxyyyy0010 (R145). -/
theorem test_decode_andVxVy :
    decodeTableWord 16 0b1000101001010010 = some (.andVxVy 0b1010#4 0b0101#4) := by decide

/-- `8xy3`: bits 1000xxxxyyyy0011 (R146). -/
theorem test_decode_xorVxVy :
    decodeTableWord 16 0b1000101001010011 = some (.xorVxVy 0b1010#4 0b0101#4) := by decide

/-- `8xy4`: bits 1000xxxxyyyy0100 (R147). -/
theorem test_decode_addVxVy :
    decodeTableWord 16 0b1000101001010100 = some (.addVxVy 0b1010#4 0b0101#4) := by decide

/-- `8xy5`: bits 1000xxxxyyyy0101 (R148). -/
theorem test_decode_subVxVy :
    decodeTableWord 16 0b1000101001010101 = some (.subVxVy 0b1010#4 0b0101#4) := by decide

/-- `8xy6`: bits 1000xxxxyyyy0110 (R150). -/
theorem test_decode_shrVx :
    decodeTableWord 16 0b1000101001010110 = some (.shrVx 0b1010#4 0b0101#4) := by decide

/-- `8xy7`: bits 1000xxxxyyyy0111 (R149). -/
theorem test_decode_subnVxVy :
    decodeTableWord 16 0b1000101001010111 = some (.subnVxVy 0b1010#4 0b0101#4) := by decide

/-- `8xyE`: bits 1000xxxxyyyy1110 (R151). -/
theorem test_decode_shlVx :
    decodeTableWord 16 0b1000101001011110 = some (.shlVx 0b1010#4 0b0101#4) := by decide

/-- `9xy0`: bits 1001xxxxyyyy0000 (R134). -/
theorem test_decode_sneVxVy :
    decodeTableWord 16 0b1001101001010000 = some (.sneVxVy 0b1010#4 0b0101#4) := by decide

/-- `Annn`: bits 1010nnnnnnnnnnnn (R161). -/
theorem test_decode_ldINnn :
    decodeTableWord 16 0b1010100000000001 = some (.ldINnn 0b100000000001#12) := by decide

/-- `Bnnn`: bits 1011nnnnnnnnnnnn (R123). -/
theorem test_decode_jpV0Nnn :
    decodeTableWord 16 0b1011100000000001 = some (.jpV0Nnn 0b100000000001#12) := by decide

/-- `Cxnn`: bits 1100xxxxnnnnnnnn (R171). -/
theorem test_decode_rndVxNn :
    decodeTableWord 16 0b1100101011000011 = some (.rndVxNn 0b1010#4 0b11000011#8) := by decide

/-- `Dxyn`: bits 1101xxxxyyyynnnn (R182). -/
theorem test_decode_drwVxVyN :
    decodeTableWord 16 0b1101101001011111 = some (.drwVxVyN 0b1010#4 0b0101#4 15) := by decide

/-- `Ex9E`: bits 1110xxxx10011110 (R175). -/
theorem test_decode_skpVx :
    decodeTableWord 16 0b1110101010011110 = some (.skpVx 0b1010#4) := by decide

/-- `ExA1`: bits 1110xxxx10100001 (R176). -/
theorem test_decode_sknpVx :
    decodeTableWord 16 0b1110101010100001 = some (.sknpVx 0b1010#4) := by decide

/-- `Fx07`: bits 1111xxxx00000111 (R172). -/
theorem test_decode_ldVxDt :
    decodeTableWord 16 0b1111101000000111 = some (.ldVxDt 0b1010#4) := by decide

/-- `Fx0A`: bits 1111xxxx00001010 (R177). -/
theorem test_decode_ldVxK :
    decodeTableWord 16 0b1111101000001010 = some (.ldVxK 0b1010#4) := by decide

/-- `Fx15`: bits 1111xxxx00010101 (R173). -/
theorem test_decode_ldDtVx :
    decodeTableWord 16 0b1111101000010101 = some (.ldDtVx 0b1010#4) := by decide

/-- `Fx18`: bits 1111xxxx00011000 (R174). -/
theorem test_decode_ldStVx :
    decodeTableWord 16 0b1111101000011000 = some (.ldStVx 0b1010#4) := by decide

/-- `Fx1E`: bits 1111xxxx00011110 (R162). -/
theorem test_decode_addIVx :
    decodeTableWord 16 0b1111101000011110 = some (.addIVx 0b1010#4) := by decide

/-- `Fx29`: bits 1111xxxx00101001 (R163). -/
theorem test_decode_ldFVx :
    decodeTableWord 16 0b1111101000101001 = some (.ldFVx 0b1010#4) := by decide

/-- `Fx33`: bits 1111xxxx00110011 (R164). -/
theorem test_decode_ldBVx :
    decodeTableWord 16 0b1111101000110011 = some (.ldBVx 0b1010#4) := by decide

/-- `Fx55`: bits 1111xxxx01010101 (R165). -/
theorem test_decode_ldMemVx :
    decodeTableWord 16 0b1111101001010101 = some (.ldMemVx 0b1010#4) := by decide

/-- `Fx65`: bits 1111xxxx01100101 (R166). -/
theorem test_decode_ldVxMem :
    decodeTableWord 16 0b1111101001100101 = some (.ldVxMem 0b1010#4) := by decide

/-! ## One step per vector of 95_test_vectors.md -/

/-- The reset state with some registers set. -/
def withRegs (l : List (Reg × Byte)) : State := l.foldl (fun s p => s.setV p.1 p.2) State.reset

/-- The state after one step of the word at pc; a refusal shows as a state that was never reset. -/
def after (s : State) (w : Nat) : State :=
  match step (s.withFetchWord 16 w) with
  | .next t => t
  | .fault _ | .refused _ => { s with resetDone := false }

/-- Bytes stored from an address. -/
def withBytes (s : State) (a : Nat) (bs : List Byte) : State := { s with mem := Memory.writeBlock s.mem a bs }

/-- Vx and VF. -/
def vAndF (s : State) (x : Reg) : Byte × Byte := (s.getV x, s.getV 0xF)

/-- E1. -/
theorem test_bigEndian_fetch : (after State.reset 0xA123).i = 0x0123 := by decide
/-- E2. -/
theorem test_odd_fetch : ((after { State.reset with pc := 0x201 } 0x6A55).getV 0xA, (after { State.reset with pc := 0x201 } 0x6A55).pc)
    = (0x55, 0x203) := by decide
/-- E3. -/
theorem test_fetch_last : (after { State.reset with pc := 0xFFE } 0x1200).pc = 0x200 := by decide
/-- E4. -/
theorem test_fetch_fault : ((after { State.reset with pc := 0xFFF, dt := 3 } 0).fault, (after { State.reset with pc := 0xFFF, dt := 3 } 0).pc,
    (after { State.reset with pc := 0xFFF, dt := 3 } 0).dt) = (⟨true, .fetchRange⟩, 0xFFF, 3) := by decide
/-- E11. -/
theorem test_noop_ticks : ((after { State.reset with dt := 3, st := 1 } 0).dt, (after { State.reset with dt := 3, st := 1 } 0).st)
    = (2, 0) := by decide
/-- E8. -/
theorem test_8xy8_noop : vAndF (after (withRegs [(0, 1), (1, 2), (0xF, 9)]) 0x8018) 0 = (1, 9) := by decide
/-- E9: no KEY_RANGE fault. -/
theorem test_Ex00_noop : (after (withRegs [(0, 0x20)]) 0xE000).fault.valid = false := by decide
/-- K23. -/
theorem test_faulted_still : (after { State.reset with dt := 5, fault := ⟨true, .memRange⟩ } 0).dt = 5 := by decide
/-- H10. -/
theorem test_refused_before_reset :
    (match step { State.reset with resetDone := false } with | .refused .beforeReset => true | _ => false) = true := by decide

/-- T1. -/
theorem test_jp : (after State.reset 0x1ABC).pc = 0xABC := by decide
/-- T3. -/
theorem test_call : ((after { State.reset with pc := 0x2FE, sp := 3 } 0x2400).stack[3],
    (after { State.reset with pc := 0x2FE, sp := 3 } 0x2400).sp, (after { State.reset with pc := 0x2FE, sp := 3 } 0x2400).pc)
    = (0x300, 4, 0x400) := by decide
/-- T4. -/
theorem test_call_overflow : ((after { State.reset with sp := 16 } 0x2400).fault, (after { State.reset with sp := 16 } 0x2400).pc)
    = (⟨true, .stackOverflow⟩, 0x200) := by decide
/-- T5. -/
theorem test_ret : ((after { State.reset with sp := 2, stack := State.reset.stack.set 1 0xABC } 0x00EE).pc,
    (after { State.reset with sp := 2, stack := State.reset.stack.set 1 0xABC } 0x00EE).sp) = (0xABC, 1) := by decide
/-- T6. -/
theorem test_ret_underflow : ((after State.reset 0x00EE).fault, (after State.reset 0x00EE).pc)
    = (⟨true, .stackUnderflow⟩, 0x200) := by decide
/-- T8. -/
theorem test_jpV0 : (after (withRegs [(0, 0xFF)]) 0xBFFF).pc = 0x10FE := by decide
/-- T9, T10. -/
theorem test_seVxNn : ((after (withRegs [(3, 0x2A)]) 0x332A).pc, (after (withRegs [(3, 0x2B)]) 0x332A).pc) = (0x204, 0x202) := by
  decide
/-- T11, T12. -/
theorem test_sneVxNn : ((after (withRegs [(3, 0x2A)]) 0x432A).pc, (after (withRegs [(3, 0x2A)]) 0x4300).pc) = (0x202, 0x204) := by
  decide
/-- T13, T14. -/
theorem test_seVxVy : ((after (withRegs [(1, 7), (2, 7)]) 0x5120).pc, (after (withRegs [(1, 7), (2, 8)]) 0x5120).pc)
    = (0x204, 0x202) := by decide
/-- T16, T17. -/
theorem test_sneVxVy : ((after (withRegs [(1, 7), (2, 8)]) 0x9120).pc, (after (withRegs [(1, 7), (2, 7)]) 0x9120).pc)
    = (0x204, 0x202) := by decide

/-- A1. -/
theorem test_ldVxNn : (after State.reset 0x6A7F).getV 0xA = 0x7F := by decide
/-- A3, S5. -/
theorem test_addVxNn : vAndF (after (withRegs [(2, 0xFF), (0xF, 1)]) 0x7202) 2 = (0x01, 1) := by decide
/-- A6. -/
theorem test_ldVxVy : (after (withRegs [(1, 0x33)]) 0x8010).getV 0 = 0x33 := by decide
/-- A7. -/
theorem test_or : vAndF (after (withRegs [(0, 0xF0), (1, 0x0F), (0xF, 1)]) 0x8011) 0 = (0xFF, 1) := by decide
/-- A8. -/
theorem test_and : (after (withRegs [(0, 0xF3), (1, 0x3C)]) 0x8012).getV 0 = 0x30 := by decide
/-- A9. -/
theorem test_xor : (after (withRegs [(0, 0xFF), (1, 0x0F)]) 0x8013).getV 0 = 0xF0 := by decide
/-- A11. -/
theorem test_add_carry : vAndF (after (withRegs [(0, 0xF0), (1, 0x20)]) 0x8014) 0 = (0x10, 1) := by decide
/-- A17: the carry replaces the sum in VF. -/
theorem test_add_into_vf : (after (withRegs [(0xF, 2), (1, 3)]) 0x8F14).getV 0xF = 0 := by decide
/-- A20. -/
theorem test_sub_borrow : vAndF (after (withRegs [(0, 0x10), (1, 0x20)]) 0x8015) 0 = (0xF0, 0) := by decide
/-- A22: equality is no borrow. -/
theorem test_sub_equal : vAndF (after (withRegs [(0, 5), (1, 5)]) 0x8015) 0 = (0, 1) := by decide
/-- R149's examples. -/
theorem test_subn : (vAndF (after (withRegs [(0, 0x10), (1, 0x20)]) 0x8017) 0, vAndF (after (withRegs [(0, 0x20), (1, 0x10)]) 0x8017) 0)
    = ((0x10, 1), (0xF0, 0)) := by decide
/-- A31: y = F is not read. -/
theorem test_shr : vAndF (after (withRegs [(0, 5), (0xF, 7)]) 0x80F6) 0 = (2, 1) := by decide
/-- A37: the flag replaces the result in VF. -/
theorem test_shr_vf : (after (withRegs [(0xF, 2)]) 0x8F06).getV 0xF = 0 := by decide
/-- A38. -/
theorem test_shl : vAndF (after (withRegs [(0, 0x81)]) 0x800E) 0 = (2, 1) := by decide
/-- A43. -/
theorem test_shl_vf : (after (withRegs [(0xF, 0x81)]) 0x8F0E).getV 0xF = 1 := by decide

/-- M1. -/
theorem test_ldI : (after { State.reset with i := 0xFFFF } 0xA2F0).i = 0x2F0 := by decide
/-- M3, M4. -/
theorem test_addI : ((after { withRegs [(1, 5)] with i := 0xFFE } 0xF11E).i, (after { withRegs [(0, 1)] with i := 0xFFFF } 0xF01E).i)
    = (0x1003, 0) := by decide
/-- M6, M8. -/
theorem test_ldF : ((after (withRegs [(0, 0xF)]) 0xF029).i, (after (withRegs [(0, 0xFF)]) 0xF029).i) = (0x4B, 0x4FB) := by decide
/-- M10. -/
theorem test_bcd : Memory.readBlock (after { withRegs [(0, 0xFF)] with i := 0xFFD } 0xF033).mem 0xFFD 3 = [2, 5, 5] := by decide
/-- M11. -/
theorem test_bcd_fault : ((after { withRegs [(0, 0xFF)] with i := 0xFFE } 0xF033).fault,
    Memory.read (after { withRegs [(0, 0xFF)] with i := 0xFFE } 0xF033).mem 0xFFE) = (⟨true, .memRange⟩, 0) := by decide
/-- M14. -/
theorem test_store : Memory.readBlock
    (after { withRegs [(0, 0x11), (1, 0x22), (2, 0x33), (3, 0x44)] with i := 0x400 } 0xF255).mem 0x400 4 = [0x11, 0x22, 0x33, 0] := by
  decide
/-- M16. -/
theorem test_store_fault : (after { State.reset with i := 0xFF1 } 0xFF55).fault = ⟨true, .memRange⟩ := by decide
/-- M18. -/
theorem test_load : ((after State.reset 0xF365).regsUpTo 4, (after State.reset 0xF365).i) = ([0xF0, 0x90, 0x90, 0x90, 0], 0) := by decide
/-- M19. -/
theorem test_load_fault : (after { State.reset with i := 0x1000 } 0xF065).fault = ⟨true, .memRange⟩ := by decide
/-- P5, its fifth step: a store of `12 0C` over the next instruction is what the next fetch reads. -/
theorem test_self_modifying : (after { withRegs [(0, 0x12), (1, 0x0C)] with i := 0x202 } 0xF155).fetchWord = 0x120C := by decide

/-- K2: whatever the draw. -/
theorem test_rnd_masked : (after State.reset 0xC300).getV 3 = 0 := by
  show Config.rndIn 0 &&& 0 = 0
  exact BitVec.and_zero
/-- R171: each draw is used up. -/
theorem test_rnd_draws : (after State.reset 0xC3FF).draws = 1 := by decide
/-- K4. -/
theorem test_ldVxDt : ((after { State.reset with dt := 9 } 0xF107).getV 1, (after { State.reset with dt := 9 } 0xF107).dt) = (9, 8) := by
  decide
/-- K6, K7. -/
theorem test_ldDtVx : ((after (withRegs [(0, 0xA)]) 0xF015).dt, (after (withRegs [(0, 0)]) 0xF015).dt) = (9, 0) := by decide
/-- K10. -/
theorem test_ldStVx : ((after { withRegs [(5, 2)] with dt := 5 } 0xF518).st, (after { withRegs [(5, 2)] with dt := 5 } 0xF518).dt)
    = (1, 4) := by decide
/-- K11, K17. -/
theorem test_skp : ((after { withRegs [(2, 7)] with key := State.reset.key.set 7 true } 0xE29E).pc,
    (after { withRegs [(2, 7)] with key := State.reset.key.set 2 true } 0xE29E).pc) = (0x204, 0x202) := by decide
/-- K15. -/
theorem test_skp_fault : (after (withRegs [(0, 0x10)]) 0xE09E).fault = ⟨true, .keyRange⟩ := by decide
/-- K13, K14. -/
theorem test_sknp : ((after { withRegs [(2, 7)] with key := State.reset.key.set 7 true } 0xE2A1).pc, (after (withRegs [(2, 7)]) 0xE2A1).pc)
    = (0x202, 0x204) := by decide
/-- K16. -/
theorem test_sknp_fault : (after (withRegs [(0, 0xFF)]) 0xE0A1).fault = ⟨true, .keyRange⟩ := by decide
/-- K18. -/
theorem test_ldVxK_waits : ((after { withRegs [(2, 0x55)] with dt := 3 } 0xF20A).pc, (after { withRegs [(2, 0x55)] with dt := 3 } 0xF20A).getV 2,
    (after { withRegs [(2, 0x55)] with dt := 3 } 0xF20A).dt) = (0x200, 0x55, 2) := by decide
/-- K21. -/
theorem test_ldVxK_lowest : ((after { State.reset with key := (State.reset.key.set 4 true).set 9 true } 0xF20A).getV 2,
    (after { State.reset with key := (State.reset.key.set 4 true).set 9 true } 0xF20A).pc) = (4, 0x202) := by decide

/-- W1. -/
theorem test_cls : ((after { State.reset with fb := State.reset.fb.set 100 true } 0x00E0).fb[100],
    (after { State.reset with fb := State.reset.fb.set 100 true } 0x00E0).redraw) = (false, true) := by decide
/-- W3: glyph 0, its second row. -/
theorem test_drw_glyph : ((List.range 8).map fun c => (after State.reset 0xD015).fb[64 + c]?)
    = [true, false, false, true, false, false, false, false].map some := by decide
/-- W7: the start coordinates wrap. -/
theorem test_drw_wrap : ((List.range 4).map fun c =>
    (after (withBytes { withRegs [(0, 0x42), (1, 0x21)] with i := 0x300 } 0x300 [0xC0]) 0xD011).fb[65 + c]?)
    = [false, true, true, false].map some := by decide
/-- W5, W6: a collision is a pixel that goes from 1 to 0. -/
theorem test_drw_collision :
    ((after (withBytes { State.reset with i := 0x300, fb := State.reset.fb.set 0 true } 0x300 [0x80]) 0xD011).getV 0xF,
      (after (withBytes { State.reset with i := 0x300, fb := State.reset.fb.set 0 true } 0x300 [0x40]) 0xD011).getV 0xF) = (1, 0) := by
  decide
/-- W8. -/
theorem test_drw_no_rows : ((after { withRegs [(0xF, 9)] with i := 0xFFFF } 0xD010).getV 0xF,
    (after { withRegs [(0xF, 9)] with i := 0xFFFF } 0xD010).redraw, (after { withRegs [(0xF, 9)] with i := 0xFFFF } 0xD010).fault.valid)
    = (0, true, false) := by decide
/-- W10. -/
theorem test_drw_fault : ((after { State.reset with i := 0xFFF } 0xD012).fault, (after { State.reset with i := 0xFFF } 0xD012).redraw)
    = (⟨true, .memRange⟩, false) := by decide

/-! ## Host operations -/

/-- H1. -/
theorem test_reset_memory : (Memory.read State.reset.mem 0x04F, Memory.read State.reset.mem 0x050, Memory.read State.reset.mem 0x200)
    = (0x80, 0, 0) := by decide
/-- R243: the font table has its 80 bytes, glyph A at 0x032. -/
theorem test_font : (fontTable.length, Memory.readBlock State.reset.mem 0x32 5) = (80, [0xF0, 0x90, 0xF0, 0x90, 0x90]) := by decide
/-- H4. -/
theorem test_load_image : Memory.readBlock (State.reset.loaded [0xAA, 0xBB, 0xCC]).mem 0x200 4 = [0xAA, 0xBB, 0xCC, 0] := by decide
/-- H2: reset erases the program. -/
theorem test_reset_erases : Memory.read (State.reset.loaded [0x12, 0x34]).resetAgain.mem 0x200 = 0 := by decide
/-- H8. -/
theorem test_sound : (after { State.reset with st := 3 } 0).st = 2 := by decide
/-- H11: setDelay works on a faulted machine. -/
theorem test_faulted_setDelay : (match hostSetDelay 7 { State.reset with fault := ⟨true, .stackOverflow⟩ } with
    | .next t => t.dt == 7 && t.fault.valid | _ => false) = true := by decide
/-- A write of the reset content is not listed, so equal memories are equal lists. -/
theorem test_memory_canonical : Memory.write (Memory.write [] 0x300 5) 0x300 0 = [] := by decide

/-! ## Well-formedness refuses -/

/-- A draw of 16 rows is ill formed, one of 15 is not (R92). -/
theorem test_wf_rows : ((Instr.drwVxVyN 0 1 16).wf, (Instr.drwVxVyN 0 1 15).wf) = (false, true) := by decide
/-- S3: an image of 3585 bytes does not fit, one of 3584 does. -/
theorem test_wf_image : imageFits (List.replicate 3585 0) = false ∧ imageFits (List.replicate 3584 0) = true := by
  rw [imageFits, imageFits, List.length_replicate, List.length_replicate]
  decide

/-! ## The hypotheses of the obligations can be met, each clause at a boundary -/

/-- A running state at pc with a word in front of it. -/
def placed (pc : Word) (w : Nat) : State := ({ State.reset with pc := pc } : State).withFetchWord 16 w

theorem witness_encodedInstruction : (Instr.drwVxVyN 0xF 0xF 15).wf = true := by decide
theorem witness_decodedWord : decodeWord 0xDFFF = .ok (.drwVxVyN 0xF 0xF 15) := by decide
theorem witness_row : (0xF0FF, 0xF065) ∈ opcodeRows ∧ (0xFF65 : Word) &&& 0xF0FF = 0xF065 := by decide
theorem witness_unrecognized : decodeWord 0x0000 = .error (.unrecognized 0) ∧ decodeWord 0x8FFF = .error (.unrecognized 0x8FFF) ∧
    decodeWord 0xFFFF = .error (.unrecognized 0xFFFF) ∧ decodeWord 0x9001 = .error (.unrecognized 0x9001) ∧
    decodeWord 0xE000 = .error (.unrecognized 0xE000) ∧ decodeWord 0x5001 = .error (.unrecognized 0x5001) := by decide
theorem witness_fetchBigEndian : (List.replicate 3582 (0 : Byte)).length ≤ 3582 := List.length_replicate.le
theorem witness_placedWord : Memory.wf State.reset.mem = true ∧ ({ State.reset with pc := 0xFFE } : State).pc.toNat ≤ 0xFFE := by decide
theorem witness_stepRuns : (placed 0xFFE 0x6A7F).Running ∧ (placed 0xFFE 0x6A7F).pc.toNat ≤ 0xFFE ∧
    decodeWord (placed 0xFFE 0x6A7F).fetchWord = .ok (.ldVxNn 0xA 0x7F) ∧
    ∃ t, exec (.ldVxNn 0xA 0x7F) (placed 0xFFE 0x6A7F) = .next t := ⟨⟨rfl, rfl⟩, by decide, by decide, _, rfl⟩
theorem witness_noOp : (placed 0xFFE 0).Running ∧ (placed 0xFFE 0).pc.toNat ≤ 0xFFE ∧
    ∀ i, decodeWord (placed 0xFFE 0).fetchWord ≠ .ok i := by
  refine ⟨⟨rfl, rfl⟩, by decide, fun i => ?_⟩
  rw [show decodeWord (placed 0xFFE 0).fetchWord = .error (.unrecognized 0) by decide]
  simp
theorem witness_timers : State.reset.Running ∧ (∃ t, step State.reset = .next t ∧ t.fault.valid = false) ∧
    (∀ x, decodeWord State.reset.fetchWord ≠ .ok (.ldDtVx x)) ∧ (∀ x, decodeWord State.reset.fetchWord ≠ .ok (.ldStVx x)) := by
  refine ⟨⟨rfl, rfl⟩, ⟨_, rfl, by decide⟩, ?_, ?_⟩ <;> decide
theorem witness_timers_dt : (placed 0x200 0xF015).Running ∧ (∃ t, step (placed 0x200 0xF015) = .next t ∧ t.fault.valid = false) ∧
    decodeWord (placed 0x200 0xF015).fetchWord = .ok (.ldDtVx 0) := ⟨⟨rfl, rfl⟩, ⟨_, rfl, by decide⟩, by decide⟩
theorem witness_timers_st : (placed 0x200 0xFF18).Running ∧ (∃ t, step (placed 0x200 0xFF18) = .next t ∧ t.fault.valid = false) ∧
    decodeWord (placed 0x200 0xFF18).fetchWord = .ok (.ldStVx 0xF) := ⟨⟨rfl, rfl⟩, ⟨_, rfl, by decide⟩, by decide⟩
theorem witness_faulted : (State.reset.raiseFault .memRange).resetDone = true ∧ (State.reset.raiseFault .memRange).fault.valid = true ∧
    HostOp.clearRedraw ≠ .reset := by decide
theorem witness_fetchPast : ({ State.reset with pc := 0xFFF } : State).Running ∧ ({ State.reset with pc := 0xFFF } : State).pc.toNat > 0xFFE :=
  ⟨⟨rfl, rfl⟩, by decide⟩
theorem witness_beforeReset : ({ State.reset with resetDone := false } : State).resetDone = false ∧ HostOp.step ≠ .reset ∧
    ∃ t, hostDo .reset { State.reset with resetDone := false } = .next t := ⟨rfl, by decide, _, rfl⟩
theorem witness_stepAnswers : State.reset.resetDone = true := rfl
theorem witness_table_fetch : stepFault { State.reset with pc := 0xFFF } = some .fetchRange := by decide
theorem witness_table_mem : stepFault ({ State.reset with i := 0xFFE } |>.withFetchWord 16 0xF033) = some .memRange ∧
    stepFault ({ State.reset with i := 0xFFF } |>.withFetchWord 16 0xD002) = some .memRange ∧
    stepFault ({ State.reset with i := 0xFF1 } |>.withFetchWord 16 0xFF55) = some .memRange ∧
    stepFault ({ State.reset with i := 0xFF1 } |>.withFetchWord 16 0xFF65) = some .memRange := by decide
theorem witness_table_stack : stepFault ({ State.reset with sp := 16 } |>.withFetchWord 16 0x2200) = some .stackOverflow ∧
    stepFault (State.reset.withFetchWord 16 0x00EE) = some .stackUnderflow := by decide
theorem witness_table_key : stepFault (withRegs [(0, 0x10)] |>.withFetchWord 16 0xE09E) = some .keyRange ∧
    stepFault (withRegs [(0, 0x10)] |>.withFetchWord 16 0xE0A1) = some .keyRange := by decide
theorem witness_table_none : State.reset.Running ∧ stepFault State.reset = none ∧ stepFault (placed 0xFFE 0x00E0) = none :=
  ⟨⟨rfl, rfl⟩, by decide, by decide⟩
theorem witness_faultIsWhole : ∃ t, step { State.reset with pc := 0xFFF } = .next t ∧ t.fault.valid = true := ⟨_, rfl, by decide⟩
theorem witness_ret : State.reset.sp.val = 0 ∧ ({ State.reset with sp := 1 } : State).sp.val = (0 : Fin 16).val + 1 ∧
    ({ State.reset with sp := 16 } : State).sp.val = (15 : Fin 16).val + 1 := by decide
theorem witness_call : ({ State.reset with sp := 16 } : State).sp.val = 16 ∧ State.reset.sp.val = (0 : Fin 16).val ∧
    ({ State.reset with sp := 15 } : State).sp.val = (15 : Fin 16).val := by decide
theorem witness_resultRegister : (0xE : Reg) ≠ 0xF ∧ (0 : Reg) ≠ 0xF := by decide
theorem witness_decimal : ({ State.reset with i := 0xFFE } : State).i.toNat + 2 > 0xFFF ∧
    ({ State.reset with i := 0xFFD } : State).i.toNat + 2 ≤ 0xFFF ∧ Memory.wf State.reset.mem = true := by decide
theorem witness_block : ({ State.reset with i := 0xFF1 } : State).i.toNat + (0xF : Reg).toNat > 0xFFF ∧
    ({ State.reset with i := 0xFF0 } : State).i.toNat + (0xF : Reg).toNat ≤ 0xFFF ∧ Memory.wf State.reset.mem = true := by decide
theorem witness_coherence : ∃ t, exec (.ldMemVx 1) { State.reset with i := 0x202 } = .next t ∧ t.pc.toNat = 0x202 + (0 : Reg).toNat ∧
    (0 : Reg).toNat < (1 : Reg).toNat ∧ Memory.wf State.reset.mem = true ∧
    ({ State.reset with i := 0x202 } : State).i.toNat + (1 : Reg).toNat ≤ 0xFFF := by
  refine ⟨_, rfl, by decide, by decide, by decide, by decide⟩
theorem witness_keySkips : ((withRegs [(0, 0x10)]).getV 0).toNat > 0x0F ∧ ((withRegs [(0, 0xF)]).getV 0).toNat = (15 : Fin 16).val ∧
    (State.reset.getV 0).toNat = (0 : Fin 16).val := by decide
theorem witness_keyWait_none : ∀ k : Fin 16, State.reset.key[k] = false := by decide
theorem witness_keyWait_step : (placed 0x200 0xF00A).Running ∧ (placed 0x200 0xF00A).pc.toNat ≤ 0xFFE ∧
    decodeWord (placed 0x200 0xF00A).fetchWord = .ok (.ldVxK 0) ∧ ∀ k : Fin 16, (placed 0x200 0xF00A).key[k] = false :=
  ⟨⟨rfl, rfl⟩, by decide, by decide, by decide⟩
theorem witness_keyWait_first : (State.reset.key.set 0 true)[(0 : Fin 16)] = true ∧
    ∀ j : Fin 16, j < 0 → (State.reset.key.set 0 true)[j] = false := by decide
theorem witness_keyWait_last : (State.reset.key.set 15 true)[(15 : Fin 16)] = true ∧
    ∀ j : Fin 16, j < 15 → (State.reset.key.set 15 true)[j] = false := by decide
theorem witness_draw : (15 : Nat) ≤ 15 ∧ ({ State.reset with i := 0xFF2 } : State).i.toNat + 15 - 1 > 0xFFF ∧
    ({ State.reset with i := 0xFF1 } : State).i.toNat + 15 - 1 ≤ 0xFFF := by decide
theorem witness_drawTwice : (0 : Reg) ≠ 0xF ∧ (0xE : Reg) ≠ 0xF ∧ faultOf (.drwVxVyN 0 0xE 15) { State.reset with i := 0xFF1 } = none := by
  decide
theorem witness_pcAfter : faultOf (.skpVx 0) (withRegs [(0, 0xF)]) = none ∧ faultOf .ret { State.reset with sp := 1 } = none ∧
    faultOf (.callNnn 0) { State.reset with sp := 15 } = none := by decide
theorem witness_faultOf : faultOf .ret State.reset = some .stackUnderflow := by decide
theorem witness_step : ∃ t, step State.reset = .next t := ⟨_, rfl⟩
theorem witness_stepWritesOnly : (∃ t, step State.reset = .next t) ∧ decodeWord State.reset.fetchWord ≠ .ok .cls ∧
    (∀ x y n, decodeWord State.reset.fetchWord ≠ .ok (.drwVxVyN x y n)) ∧ (∀ x, decodeWord State.reset.fetchWord ≠ .ok (.ldBVx x)) ∧
    (∀ x, decodeWord State.reset.fetchWord ≠ .ok (.ldMemVx x)) ∧ (∀ nnn, decodeWord State.reset.fetchWord ≠ .ok (.ldINnn nnn)) ∧
    (∀ x, decodeWord State.reset.fetchWord ≠ .ok (.addIVx x)) ∧ (∀ x, decodeWord State.reset.fetchWord ≠ .ok (.ldFVx x)) ∧
    ∀ nnn, decodeWord State.reset.fetchWord ≠ .ok (.callNnn nnn) := by
  rw [show decodeWord State.reset.fetchWord = .error (.unrecognized 0) by decide]
  exact ⟨⟨_, rfl⟩, by simp, by simp, by simp, by simp, by simp, by simp, by simp, by simp⟩
theorem witness_inv : State.reset.Inv ∧ (∃ t, step State.reset = .next t) ∧ HostOp.clearRedraw ≠ .step ∧
    ∃ t, hostDo .clearRedraw State.reset = .next t :=
  ⟨⟨rfl, by decide, by decide, by decide, rfl⟩, ⟨_, rfl⟩, by decide, _, rfl⟩
theorem witness_reachable : Reachable State.reset := Reachable.boot 0
theorem witness_loadImage : State.reset.resetDone = true ∧ (List.replicate 3584 (0 : Byte)).length ≤ 3584 ∧
    (List.replicate 3585 (0 : Byte)).length > 3584 := by
  rw [List.length_replicate, List.length_replicate]
  decide

end Sys2Proof.Tests
end

-- ==== Proofs: family 20_memory.md ====
section
/-! PROOFS. The byte order of a fetch (20_memory.md). -/

namespace Sys2Proof

/-- R61's `hi << 8 | lo`, the spec's own way to write the big-endian word. -/
theorem wordOfBytes_eq_shiftLeft_or (hi lo : Byte) :
    wordOfBytes hi lo = hi.setWidth 16 <<< 8 ||| lo.setWidth 16 := by
  rw [wordOfBytes, BitVec.append_def, BitVec.shiftLeftZeroExtend_eq, BitVec.setWidth'_eq]

end Sys2Proof

namespace Sys2Proof.Machine

/-- An image that fits is in memory after a load, byte `k` at PROG_BASE + k (R245). -/
theorem State.read_loaded {s : State} (hm : Memory.wf s.mem = true) {bytes : List Byte} (hfit : bytes.length ≤ maxImage)
    (k : Nat) (hk : k < bytes.length) : Memory.read (s.loaded bytes).mem (progBase + k) = bytes[k] := by
  have hend : progBase + bytes.length ≤ memSize := by
    simp only [maxImage, progBase, memSize] at hfit ⊢
    omega
  have hfits : imageFits bytes = true := decide_eq_true hfit
  rw [State.loaded_mem, if_pos hfits]
  exact Memory.read_writeBlock_inside bytes hm hend k hk

/-- A machine at PROG_BASE fetches the first two bytes of the image it was loaded with, in the image's order (R61). -/
theorem State.fetchWord_loaded {s : State} (hm : Memory.wf s.mem = true) (hpc : s.pc.toNat = progBase)
    (b0 b1 : Byte) {rest : List Byte} (hfit : (b0 :: b1 :: rest).length ≤ maxImage) :
    (s.loaded (b0 :: b1 :: rest)).fetchWord = wordOfBytes b0 b1 := by
  have h0 := State.read_loaded hm hfit 0 (by simp)
  have h1 := State.read_loaded hm hfit 1 (by simp)
  rw [State.fetchWord, State.loaded_pc, hpc]
  exact congrArg₂ wordOfBytes h0 h1

/-- Settles O6: a fetch puts two bytes together as `hi << 8 | lo`, and the first two bytes of a loaded image are what
the reset state, whose pc is PROG_BASE, fetches. -/
theorem fetchIsBigEndian : Obligations.FetchIsBigEndian := by
  refine ⟨fun s => wordOfBytes_eq_shiftLeft_or _ _, fun b0 b1 rest hlen => ?_⟩
  have hfit : (b0 :: b1 :: rest).length ≤ maxImage := by
    simp only [List.length_cons, maxImage]
    omega
  rw [State.fetchWord_loaded Memory.wf_nil rfl b0 b1 hfit, wordOfBytes_eq_shiftLeft_or]

end Sys2Proof.Machine
end

-- ==== Proofs: family 30_encoding.md ====
section
/-! PROOFS. The step of an unrecognized word (30_encoding.md R98). -/

namespace Sys2Proof.Machine

/-- A running machine whose pc can be fetched from executes the word there and ends the step (R100). -/
theorem step_of_running {s : State} (h : s.Running) (hpc : s.pc.toNat ≤ 0xFFE) :
    step s = endOfStep (runFetched s) := by
  obtain ⟨hreset, hfault⟩ := h
  exact State.stepWith_run hreset hfault hpc runFetched

theorem runFetched_of_unrecognized {s : State} (h : ∀ i, decodeWord s.fetchWord ≠ .ok i) :
    runFetched s = .next s.advance := by
  unfold runFetched
  split
  · next i hi => exact absurd hi (h i)
  · rfl

/-- The whole effect of an unrecognized word: pc advances, then the timers tick. -/
theorem step_of_unrecognized {s : State} (hrun : s.Running) (hpc : s.pc.toNat ≤ 0xFFE)
    (h : ∀ i, decodeWord s.fetchWord ≠ .ok i) : step s = .next s.advance.tickTimers := by
  have hfault : s.advance.fault.valid = false := hrun.2
  rw [step_of_running hrun hpc, runFetched_of_unrecognized h, endOfStep_of_running hfault]

theorem State.sameBut_advance_tickTimers (s : State) : s.sameBut s.advance.tickTimers [.pc, .dt, .st] := by
  intro p hp
  cases p
  case pc | dt | st => simp at hp
  all_goals simp [State.agreeOn]

/-- Settles O9: pc advances by 2 and both timers count down, and nothing else differs, because the step of an
unrecognized word is `advance` followed by `tickTimers`. -/
theorem unrecognizedWordIsANoOp : Obligations.UnrecognizedWordIsANoOp := by
  intro s hrun hpc hnone
  refine ⟨s.advance.tickTimers, step_of_unrecognized hrun hpc hnone, rfl, ?_, ?_, s.sameBut_advance_tickTimers⟩
  · exact toNat_countDown s.dt
  · exact toNat_countDown s.st

end Sys2Proof.Machine
end

-- ==== Proofs: family 40_control_transfer.md ====
section
/-! PROOFS. The jump to a 12-bit address (40_control_transfer.md R121). -/

namespace Sys2Proof

theorem decodeWord_wordNNN_jump (nnn : Addr) : decodeWord (wordNNN 0x1#4 nnn) = .ok (.jpNnn nnn) := by
  simp [decodeWord]

end Sys2Proof

namespace Sys2Proof.Machine

/-- A 12-bit address is zero-extended, so it keeps its value. -/
@[simp] theorem toNat_addrOperand (nnn : Addr) : (addrOperand nnn).toNat = nnn.toNat :=
  BitVec.toNat_setWidth_of_le (by decide)

theorem State.sameBut_jump (s : State) (target : Word) : s.sameBut (s.jump target) [.pc] := by
  intro p hp
  cases p
  case pc => simp at hp
  all_goals simp [State.agreeOn]

theorem exec_jpNnn (nnn : Addr) (s : State) : exec (.jpNnn nnn) s = .next (s.jump (addrOperand nnn)) := rfl

/-- Settles O18: JP nnn is `jump` to the zero-extended operand, and `jump` sets pc alone. -/
theorem jumpLoadsThePc : Obligations.JumpLoadsThePc := by
  intro nnn s
  have hpc : (s.jump (addrOperand nnn)).pc.toNat = nnn.toNat := toNat_addrOperand nnn
  exact ⟨decodeWord_wordNNN_jump nnn, s.jump (addrOperand nnn), exec_jpNnn nnn s, hpc, s.sameBut_jump _⟩

end Sys2Proof.Machine
end

-- ==== Proofs: family 41_skips.md ====
section
/-! PROOFS. The skips on registers (41_skips.md R130 to R134). -/

namespace Sys2Proof

theorem decodeWord_wordXNN_skipEqual (x : Reg) (nn : Byte) :
    decodeWord (wordXNN 0x3#4 x nn) = .ok (.seVxNn x nn) := by
  simp [decodeWord]

theorem decodeWord_wordXNN_skipNotEqual (x : Reg) (nn : Byte) :
    decodeWord (wordXNN 0x4#4 x nn) = .ok (.sneVxNn x nn) := by
  simp [decodeWord]

theorem decodeWord_wordXYN_skipEqual (x y : Reg) : decodeWord (wordXYN 0x5#4 x y 0#4) = .ok (.seVxVy x y) := by
  simp [decodeWord, decodeFamily5]

theorem decodeWord_wordXYN_skipNotEqual (x y : Reg) :
    decodeWord (wordXYN 0x9#4 x y 0#4) = .ok (.sneVxVy x y) := by
  simp [decodeWord, decodeFamily9]

end Sys2Proof

namespace Sys2Proof.Machine

/-- The fetch's increment and the skip's make 4 together, modulo 2^16 (R130). -/
theorem State.pc_advance_skipIf (s : State) (c : Bool) :
    (s.advance.skipIf c).pc = if c then s.pc + 4 else s.pc + 2 := by
  have htwice : s.pc + 2 + 2 = s.pc + 4 := BitVec.add_assoc s.pc 2 2
  rw [State.skipIf_pc, State.advance_pc, htwice]

theorem State.sameBut_advance_skipIf (s : State) (c : Bool) : s.sameBut (s.advance.skipIf c) [.pc] := by
  intro p hp
  cases p
  case pc => simp at hp
  all_goals simp [State.agreeOn]

/-- The effect of an instruction that is a skip on the test `c` of the condition `p` (R130). -/
theorem exec_of_skip {i : Instr} {s : State} {c : Bool} {p : Prop} [Decidable p]
    (hexec : exec i s = .next (s.advance.skipIf c)) (htest : c = true ↔ p) :
    ∃ t, exec i s = .next t ∧ t.pc = (if p then s.pc + 4 else s.pc + 2) ∧ s.sameBut t [.pc] := by
  refine ⟨s.advance.skipIf c, hexec, ?_, s.sameBut_advance_skipIf c⟩
  rw [State.pc_advance_skipIf]
  exact if_congr htest rfl rfl

theorem exec_seVxNn (x : Reg) (nn : Byte) (s : State) :
    exec (.seVxNn x nn) s = .next (s.advance.skipIf (s.getV x == nn)) := rfl

theorem exec_sneVxNn (x : Reg) (nn : Byte) (s : State) :
    exec (.sneVxNn x nn) s = .next (s.advance.skipIf (s.getV x != nn)) := rfl

theorem exec_seVxVy (x y : Reg) (s : State) :
    exec (.seVxVy x y) s = .next (s.advance.skipIf (s.getV x == s.getV y)) := rfl

theorem exec_sneVxVy (x y : Reg) (s : State) :
    exec (.sneVxVy x y) s = .next (s.advance.skipIf (s.getV x != s.getV y)) := rfl

/-- Settles O21: each of the four is `advance` followed by `skipIf` on its own comparison, which sets pc alone. -/
theorem registerSkipsPassTwoBytes : Obligations.RegisterSkipsPassTwoBytes := by
  intro x y nn s
  refine ⟨⟨decodeWord_wordXNN_skipEqual x nn, ?_⟩, ⟨decodeWord_wordXNN_skipNotEqual x nn, ?_⟩,
    ⟨decodeWord_wordXYN_skipEqual x y, ?_⟩, ⟨decodeWord_wordXYN_skipNotEqual x y, ?_⟩⟩
  · exact exec_of_skip (exec_seVxNn x nn s) beq_iff_eq
  · exact exec_of_skip (exec_sneVxNn x nn s) bne_iff_ne
  · exact exec_of_skip (exec_seVxVy x y s) beq_iff_eq
  · exact exec_of_skip (exec_sneVxVy x y s) bne_iff_ne

end Sys2Proof.Machine
end

-- ==== Proofs: family 42_register_alu.md ====
section
/-! PROOFS. The loads and the addition of an immediate (42_register_alu.md R141 to R143). -/

namespace Sys2Proof

theorem decodeWord_wordXNN_loadImmediate (x : Reg) (nn : Byte) :
    decodeWord (wordXNN 0x6#4 x nn) = .ok (.ldVxNn x nn) := by
  simp [decodeWord]

theorem decodeWord_wordXNN_addImmediate (x : Reg) (nn : Byte) :
    decodeWord (wordXNN 0x7#4 x nn) = .ok (.addVxNn x nn) := by
  simp [decodeWord]

theorem decodeWord_wordXYN_loadRegister (x y : Reg) :
    decodeWord (wordXYN 0x8#4 x y 0#4) = .ok (.ldVxVy x y) := by
  simp [decodeWord, decodeFamily8]

end Sys2Proof

namespace Sys2Proof.Machine

theorem State.regsSameBut_advance_setV (s : State) (x : Reg) (b : Byte) :
    s.regsSameBut (s.advance.setV x b) [x] := by
  intro r hr
  have hne : r ≠ x := fun heq => hr (List.mem_singleton.mpr heq)
  rw [State.getV_setV_of_ne _ hne, State.getV_advance]

theorem State.sameBut_advance_setV (s : State) (x : Reg) (b : Byte) :
    s.sameBut (s.advance.setV x b) [.v, .pc] := by
  intro p hp
  cases p
  case v | pc => simp at hp
  all_goals simp [State.agreeOn]

/-- The effect of an instruction that writes the byte `b` to Vx and no flag. -/
theorem exec_of_setV {i : Instr} {s : State} {x : Reg} {b : Byte} (hexec : exec i s = .next (s.advance.setV x b)) :
    ∃ t, exec i s = .next t ∧ t.getV x = b ∧ s.regsSameBut t [x] ∧ t.pc = s.pc + 2 ∧ s.sameBut t [.v, .pc] :=
  ⟨s.advance.setV x b, hexec, State.getV_setV_self _ x b, s.regsSameBut_advance_setV x b, rfl,
    s.sameBut_advance_setV x b⟩

theorem exec_ldVxNn (x : Reg) (nn : Byte) (s : State) : exec (.ldVxNn x nn) s = .next (s.advance.setV x nn) := rfl

theorem exec_ldVxVy (x y : Reg) (s : State) : exec (.ldVxVy x y) s = .next (s.advance.setV x (s.getV y)) := rfl

theorem exec_addVxNn (x : Reg) (nn : Byte) (s : State) :
    exec (.addVxNn x nn) s = .next (s.advance.setV x (s.getV x + nn)) := rfl

/-- Settles O22: each load is `advance` followed by one `setV`, of the immediate or of the old Vy. -/
theorem loadsWriteOneRegister : Obligations.LoadsWriteOneRegister := by
  intro x y nn s
  exact ⟨⟨decodeWord_wordXNN_loadImmediate x nn, exec_of_setV (exec_ldVxNn x nn s)⟩,
    ⟨decodeWord_wordXYN_loadRegister x y, exec_of_setV (exec_ldVxVy x y s)⟩⟩

/-- Settles O23: the sum of two bytes is taken modulo 2^8, and the one `setV` that stores it is the only register
write, so VF keeps its value unless it is Vx. -/
theorem addImmediateWrapsWithoutFlag : Obligations.AddImmediateWrapsWithoutFlag := by
  intro x nn s
  obtain ⟨t, hexec, hvx, hframe⟩ := exec_of_setV (exec_addVxNn x nn s)
  have hsum : (t.getV x).toNat = ((s.getV x).toNat + nn.toNat) % 256 := by
    rw [hvx]
    exact BitVec.toNat_add (s.getV x) nn
  exact ⟨decodeWord_wordXNN_addImmediate x nn, t, hexec, hsum, hframe⟩

end Sys2Proof.Machine
end

-- ==== Proofs: family 43_index_memory.md ====
section
/-! PROOFS. The load of the index register (43_index_memory.md R161). -/

namespace Sys2Proof

theorem decodeWord_wordNNN_loadIndex (nnn : Addr) : decodeWord (wordNNN 0xA#4 nnn) = .ok (.ldINnn nnn) := by
  simp [decodeWord]

end Sys2Proof

namespace Sys2Proof.Machine

theorem State.sameBut_advance_with_i (s : State) (w : Word) : s.sameBut { s.advance with i := w } [.i, .pc] := by
  intro p hp
  cases p
  case i | pc => simp at hp
  all_goals simp [State.agreeOn]

/-- The effect of an instruction that writes the word `w` to I alone. -/
theorem exec_of_with_i {i : Instr} {s : State} {w : Word} (hexec : exec i s = .next { s.advance with i := w }) :
    ∃ t, exec i s = .next t ∧ t.i = w ∧ t.pc = s.pc + 2 ∧ s.sameBut t [.i, .pc] :=
  ⟨{ s.advance with i := w }, hexec, rfl, rfl, s.sameBut_advance_with_i w⟩

theorem exec_ldINnn (nnn : Addr) (s : State) :
    exec (.ldINnn nnn) s = .next { s.advance with i := addrOperand nnn } := rfl

/-- Settles O29: LD I, nnn is `advance` followed by a write of the operand to I, and the operand is `nnn`
zero-extended, so the upper four bits of I are 0. -/
theorem loadIndexIsZeroExtended : Obligations.LoadIndexIsZeroExtended := by
  intro nnn s
  obtain ⟨t, hexec, hi, hframe⟩ := exec_of_with_i (exec_ldINnn nnn s)
  have hvalue : t.i.toNat = nnn.toNat := by rw [hi, toNat_addrOperand]
  exact ⟨decodeWord_wordNNN_loadIndex nnn, t, hexec, hvalue, hframe⟩

end Sys2Proof.Machine
end

-- ==== Proofs: family 44_random_timers_keypad.md ====
section
/-! PROOFS. The key wait (44_random_timers_keypad.md R177). -/

namespace Sys2Proof

theorem decodeWord_wordXNN_keyWait (x : Reg) : decodeWord (wordXNN 0xF#4 x 0x0A#8) = .ok (.ldVxK x) := by
  simp [decodeWord, decodeFamilyF]

end Sys2Proof

namespace Sys2Proof.Machine

/-! ## The scan of the latch, in terms of KEY -/

theorem State.firstKey_of_no_key {s : State} (h : ∀ k : Fin 16, s.key[k] = false) : s.firstKey = none := by
  refine (s.firstKey_eq_none).mpr fun k hk => ?_
  rw [s.keyDown_of_lt hk]
  exact h ⟨k, hk⟩

theorem State.firstKey_of_least {s : State} {k : Fin 16} (hk : s.key[k] = true)
    (hleast : ∀ j : Fin 16, j < k → s.key[j] = false) : s.firstKey = some k.val := by
  refine (s.firstKey_eq_some k.val).mpr ⟨k.isLt, ?_, fun j hj => ?_⟩
  · rw [s.keyDown_of_lt k.isLt]
    exact hk
  · have hlt : j < 16 := hj.trans k.isLt
    rw [s.keyDown_of_lt hlt]
    exact hleast ⟨j, hlt⟩ hj

/-! ## The two outcomes of the instruction -/

/-- Restoring pc undoes the fetch's increment, also where pc wraps. -/
theorem State.advance_jump_back (s : State) : s.advance.jump (s.advance.pc - 2) = s := by
  have hpc : s.advance.pc - 2 = s.pc := BitVec.add_sub_cancel s.pc 2
  rw [hpc]
  rfl

theorem exec_ldVxK_of_none {s : State} (h : s.firstKey = none) (x : Reg) : exec (.ldVxK x) s = .next s := by
  have hexec : exec (.ldVxK x) s = .next (s.advance.jump (s.advance.pc - 2)) := by
    simp only [exec, execLdVxK, h]
  rw [hexec, s.advance_jump_back]

theorem exec_ldVxK_of_some {s : State} {k : Nat} (h : s.firstKey = some k) (x : Reg) :
    exec (.ldVxK x) s = .next (s.advance.setV x (BitVec.ofNat 8 k)) := by
  simp only [exec, execLdVxK, h]

/-! ## The waiting step -/

theorem runFetched_of_decoded {s : State} {i : Instr} (h : decodeWord s.fetchWord = .ok i) :
    runFetched s = exec i s := by
  simp only [runFetched, h]

/-- An instruction that leaves the state as it was makes a step that only counts the timers down. -/
theorem step_of_exec_eq_self {s : State} {i : Instr} (hrun : s.Running) (hpc : s.pc.toNat ≤ 0xFFE)
    (hdecode : decodeWord s.fetchWord = .ok i) (hexec : exec i s = .next s) : step s = .next s.tickTimers := by
  rw [step_of_running hrun hpc, runFetched_of_decoded hdecode, hexec, endOfStep_of_running hrun.2]

theorem State.sameBut_tickTimers (s : State) : s.sameBut s.tickTimers [.dt, .st] := by
  intro p hp
  cases p
  case dt | st => simp at hp
  all_goals simp [State.agreeOn]

/-- Settles O38: the scan of the latch decides. With no key it finds nothing, pc is restored and the step is
`tickTimers`; else it finds the least pressed key, and one `setV` stores that number, which fits a byte. -/
theorem keyWaitStoresTheLowestKey : Obligations.KeyWaitStoresTheLowestKey := by
  intro x s
  refine ⟨decodeWord_wordXNN_keyWait x, fun hnone => ?_, fun k hk hleast => ?_⟩
  · have hexec : exec (.ldVxK x) s = .next s := exec_ldVxK_of_none (State.firstKey_of_no_key hnone) x
    refine ⟨hexec, fun hrun hpc hdecode => ?_⟩
    exact ⟨s.tickTimers, step_of_exec_eq_self hrun hpc hdecode hexec, toNat_countDown s.dt, toNat_countDown s.st,
      s.sameBut_tickTimers⟩
  · obtain ⟨t, hexec, hvx, hframe⟩ := exec_of_setV (exec_ldVxK_of_some (State.firstKey_of_least hk hleast) x)
    have hbyte : k.val < 2 ^ 8 := k.isLt.trans (by decide)
    have hkey : (t.getV x).toNat = k.val := by rw [hvx, BitVec.toNat_ofNat, Nat.mod_eq_of_lt hbyte]
    exact ⟨t, hexec, hkey, hframe⟩

end Sys2Proof.Machine
end

-- ==== Proofs: family 45_display.md ====
section
/-! PROOFS. Clearing the framebuffer (45_display.md R181). -/

namespace Sys2Proof

theorem decodeWord_clear : decodeWord 0x00E0 = .ok .cls := by decide

end Sys2Proof

namespace Sys2Proof.Machine

theorem exec_cls (s : State) :
    exec .cls s = .next { s.advance with fb := Vector.replicate 2048 false, redraw := true } := rfl

/-- The frame of a write to the display alone; VF is no part of it. -/
theorem State.sameBut_advance_with_display (s : State) (fb : Framebuffer) (redraw : Bool) :
    s.sameBut { s.advance with fb := fb, redraw := redraw } [.fb, .redraw, .pc] := by
  intro p hp
  cases p
  case fb | redraw | pc => simp at hp
  all_goals simp [State.agreeOn]

/-- Settles O39: CLS is `advance` followed by a write of 2048 zeros to FB and of true to REDRAW, neither of which
reads what FB held before. -/
theorem clearTurnsEveryPixelOff : Obligations.ClearTurnsEveryPixelOff := by
  refine ⟨decodeWord_clear, fun s => ?_⟩
  refine ⟨_, exec_cls s, fun k => ?_, rfl, rfl, s.sameBut_advance_with_display _ _⟩
  exact Vector.getElem_replicate k.isLt

end Sys2Proof.Machine
end

-- ==== Proofs: family 60_exceptions.md ====
section
/-! PROOFS. The timer tick at the end of a step (60_exceptions.md R211). -/

namespace Sys2Proof.Machine

/-! ## What an instruction leaves in the timers for the tick to count down -/

/-- DT before the tick: only `Fx15` writes it (R173). The argument is what the fetched word decodes to. -/
def dtBeforeTick : Except Reject Instr → State → Byte
  | .ok (.ldDtVx x), s => s.getV x
  | _, s => s.dt

/-- ST before the tick: only `Fx18` writes it (R174). -/
def stBeforeTick : Except Reject Instr → State → Byte
  | .ok (.ldStVx x), s => s.getV x
  | _, s => s.st

theorem dtBeforeTick_load {d : Except Reject Instr} {x : Reg} (h : d = .ok (.ldDtVx x)) (s : State) :
    dtBeforeTick d s = s.getV x := by rw [h, dtBeforeTick]

theorem stBeforeTick_load {d : Except Reject Instr} {x : Reg} (h : d = .ok (.ldStVx x)) (s : State) :
    stBeforeTick d s = s.getV x := by rw [h, stBeforeTick]

theorem dtBeforeTick_of_ne {d : Except Reject Instr} (h : ∀ x, d ≠ .ok (.ldDtVx x)) (s : State) :
    dtBeforeTick d s = s.dt := by
  unfold dtBeforeTick
  split
  · next x => exact absurd rfl (h x)
  · rfl

theorem stBeforeTick_of_ne {d : Except Reject Instr} (h : ∀ x, d ≠ .ok (.ldStVx x)) (s : State) :
    stBeforeTick d s = s.st := by
  unfold stBeforeTick
  split
  · next x => exact absurd rfl (h x)
  · rfl

/-! ## An instruction enters a fault or leaves the timers for the tick -/

/-- `t` is a state that the word decoding to `d`, run from `s` without a fault, leaves for the tick. -/
structure ReadyToTick (d : Except Reject Instr) (s t : State) : Prop where
  fault : t.fault = s.fault
  dt : t.dt = dtBeforeTick d s
  st : t.st = stBeforeTick d s

/-- The answer is fault entry on the state before the step (R203), or a state ready for the tick. -/
def FaultsOrReadyToTick (d : Except Reject Instr) (s : State) (answer : Result) : Prop :=
  (∃ c, answer = .next (s.raiseFault c)) ∨ ∃ t, answer = .next t ∧ ReadyToTick d s t

section
variable {d : Except Reject Instr} {s t : State}

theorem ReadyToTick.next (h : ReadyToTick d s t) : FaultsOrReadyToTick d s (.next t) := .inr ⟨t, rfl, h⟩

theorem FaultsOrReadyToTick.raiseFault (c : FaultCause) : FaultsOrReadyToTick d s (.next (s.raiseFault c)) :=
  .inl ⟨c, rfl⟩

theorem ReadyToTick.skipIf (h : ReadyToTick d s t) (c : Bool) : ReadyToTick d s (t.skipIf c) where
  fault := (t.skipIf_fault c).trans h.fault
  dt := (t.skipIf_dt c).trans h.dt
  st := (t.skipIf_st c).trans h.st

theorem ReadyToTick.withRange (h : ReadyToTick d s t) (count : Nat) :
    FaultsOrReadyToTick d s (s.withRange count t) := by
  obtain ⟨-, heq⟩ | ⟨-, heq⟩ := s.withRange_cases count t <;> rw [heq]
  · exact h.next
  · exact .raiseFault .memRange

theorem ReadyToTick.withKeyRange (h : ReadyToTick d s t) (k : Nat) :
    FaultsOrReadyToTick d s (s.withKeyRange k t) := by
  obtain ⟨-, heq⟩ | ⟨-, heq⟩ := s.withKeyRange_cases k t <;> rw [heq]
  · exact h.next
  · exact .raiseFault .keyRange

end

theorem execRet_faultsOrReadyToTick (s : State) : FaultsOrReadyToTick (.ok .ret) s (execRet s) := by
  obtain hsp | hsp := Nat.eq_zero_or_pos s.sp.val
  · rw [execRet, s.pop?_eq_none.mpr hsp]
    exact .raiseFault .stackUnderflow
  · rw [execRet, s.pop?_of_pos hsp]
    exact ReadyToTick.next ⟨rfl, rfl, rfl⟩

theorem execCallNnn_faultsOrReadyToTick (nnn : Addr) (s : State) :
    FaultsOrReadyToTick (.ok (.callNnn nnn)) s (execCallNnn nnn s) := by
  obtain hsp | hsp := Nat.lt_or_ge s.sp.val 16
  · rw [execCallNnn, s.push?_of_lt _ hsp]
    exact ReadyToTick.next ⟨rfl, rfl, rfl⟩
  · have hfull : s.sp.val = 16 := Nat.le_antisymm (Nat.le_of_lt_succ s.sp.isLt) hsp
    rw [execCallNnn, (s.push?_eq_none _).mpr hfull]
    exact .raiseFault .stackOverflow

theorem execLdVxK_faultsOrReadyToTick (x : Reg) (s : State) :
    FaultsOrReadyToTick (.ok (.ldVxK x)) s (execLdVxK x s) := by
  unfold execLdVxK
  split
  · exact ReadyToTick.next ⟨rfl, rfl, rfl⟩
  · exact ReadyToTick.next ⟨rfl, rfl, rfl⟩

/-- An instruction enters a fault or leaves both timers for the tick, having written at most the one it loads. -/
theorem exec_faultsOrReadyToTick (i : Instr) (s : State) : FaultsOrReadyToTick (.ok i) s (exec i s) := by
  cases i with
  | ret => exact execRet_faultsOrReadyToTick s
  | callNnn nnn => exact execCallNnn_faultsOrReadyToTick nnn s
  | ldVxK x => exact execLdVxK_faultsOrReadyToTick x s
  | seVxNn _ _ | sneVxNn _ _ | seVxVy _ _ | sneVxVy _ _ =>
    refine (ReadyToTick.skipIf (t := s.advance) ?_ _).next
    exact ⟨rfl, rfl, rfl⟩
  | skpVx _ | sknpVx _ =>
    refine (ReadyToTick.skipIf (t := s.advance) ?_ _).withKeyRange _
    exact ⟨rfl, rfl, rfl⟩
  | drwVxVyN _ _ _ | ldBVx _ | ldMemVx _ | ldVxMem _ =>
    refine ReadyToTick.withRange ?_ _
    exact ⟨rfl, rfl, rfl⟩
  | _ => exact ReadyToTick.next ⟨rfl, rfl, rfl⟩

/-- The same of the whole of fetch, decode and execute, an unrecognized word included (R98). -/
theorem runFetched_faultsOrReadyToTick (s : State) :
    FaultsOrReadyToTick (decodeWord s.fetchWord) s (runFetched s) := by
  unfold runFetched
  split
  · next i hi => exact hi ▸ exec_faultsOrReadyToTick i s
  · next e he => exact he ▸ ReadyToTick.next ⟨rfl, rfl, rfl⟩

/-! ## The step -/

/-- What a step that answers does to the timers: nothing when the next state is faulted, else the tick of what the
instruction left in them (R211). -/
theorem step_timers_cases {s t : State} (h : step s = .next t) :
    (t.fault.valid = true ∧ t.dt = s.dt ∧ t.st = s.st) ∨
    (t.fault.valid = false ∧ t.dt = countDown (dtBeforeTick (decodeWord s.fetchWord) s) ∧
      t.st = countDown (stBeforeTick (decodeWord s.fetchWord) s)) := by
  obtain ⟨-, hs⟩ | ⟨-, hf, hs⟩ | ⟨-, -, -, hs⟩ | ⟨-, hf, -, hs⟩ := s.stepWith_cases runFetched <;>
    rw [← step, h] at hs
  · cases hs
  · cases hs
    exact .inl ⟨hf, rfl, rfl⟩
  · cases hs
    exact .inl ⟨rfl, rfl, rfl⟩
  · obtain ⟨c, hrun⟩ | ⟨u, hrun, hfault, hdt, hst⟩ := runFetched_faultsOrReadyToTick s
    · rw [hrun, endOfStep_of_faulted rfl] at hs
      cases hs
      exact .inl ⟨rfl, rfl, rfl⟩
    · have hu : u.fault.valid = false := by rw [hfault, hf]
      rw [hrun, endOfStep_of_running hu] at hs
      cases hs
      exact .inr ⟨hu, congrArg countDown hdt, congrArg countDown hst⟩

/-- Settles O10: only a next state without a fault went through the tick, which counts down what the instruction left
in DT and ST, and only `Fx15` and `Fx18` leave there anything but the value from before the step. -/
theorem everyStepCountsTheTimersDown : Obligations.EveryStepCountsTheTimersDown := by
  intro s t h
  obtain ⟨hf, htimers⟩ | ⟨hf, hdt, hst⟩ := step_timers_cases h
  · exact ⟨fun hnf => absurd hf (by simp [hnf]), fun _ => htimers⟩
  · refine ⟨fun _ => ⟨fun hne => ?_, fun x hx => ?_, fun hne => ?_, fun x hx => ?_⟩,
      fun hv => absurd hv (by simp [hf])⟩
    · rw [hdt, dtBeforeTick_of_ne hne, toNat_countDown]
    · rw [hdt, dtBeforeTick_load hx, toNat_countDown]
    · rw [hst, stBeforeTick_of_ne hne, toNat_countDown]
    · rw [hst, stBeforeTick_load hx, toNat_countDown]

end Sys2Proof.Machine
end

-- ==== Proofs: family 70_reset_and_hazards.md ====
section
/-! PROOFS. The host's load of a program image (70_reset_and_hazards.md R245, R246). -/

namespace Sys2Proof.Machine

theorem imageFits_iff (bytes : List Byte) : imageFits bytes = true ↔ bytes.length ≤ maxImage := decide_eq_true_iff

/-- What `load` answers once reset has run (R214). -/
theorem hostLoad_of_resetDone {s : State} (hreset : s.resetDone = true) (bytes : List Byte) :
    hostLoad bytes s = .next (s.loaded bytes, loadResult bytes) := if_pos hreset

theorem loadResult_of_fits {bytes : List Byte} (hfits : imageFits bytes = true) : loadResult bytes = .success :=
  if_pos hfits

theorem loadResult_of_not_fits {bytes : List Byte} (hlong : ¬ imageFits bytes = true) :
    loadResult bytes = .imageTooLarge := if_neg hlong

/-- An image that does not fit leaves the whole state as it was (R246). -/
theorem State.loaded_of_not_fits (s : State) {bytes : List Byte} (hlong : ¬ imageFits bytes = true) :
    s.loaded bytes = s := if_neg hlong

/-- A load writes no byte outside the image's own range. -/
theorem State.bytesSameOutside_loaded (s : State) (bytes : List Byte) :
    s.bytesSameOutside (s.loaded bytes) progBase bytes.length := by
  intro b hb
  rw [State.loaded_mem]
  split
  · exact Memory.read_writeBlock_outside bytes s.mem progBase hb
  · rfl

theorem State.sameBut_loaded (s : State) (bytes : List Byte) : s.sameBut (s.loaded bytes) [.mem] := by
  intro p hp
  cases p
  case mem => simp at hp
  all_goals simp [State.agreeOn]

/-- Settles O56: whether the image fits in the 3584 bytes from 0x200 decides both the report and whether the one block
write that `load` consists of happens. -/
theorem loadCopiesTheImage : Obligations.LoadCopiesTheImage := by
  intro s bytes hreset
  refine ⟨fun hlen => ?_, fun hlong => ?_⟩
  · have hload : hostLoad bytes s = .next (s.loaded bytes, .success) := by
      rw [hostLoad_of_resetDone hreset, loadResult_of_fits ((imageFits_iff bytes).2 hlen)]
    exact ⟨s.loaded bytes, hload, fun hm => State.read_loaded hm hlen, s.bytesSameOutside_loaded bytes,
      s.sameBut_loaded bytes⟩
  · have hnot : ¬ imageFits bytes = true := fun hfits => absurd ((imageFits_iff bytes).1 hfits) (Nat.not_le.2 hlong)
    rw [hostLoad_of_resetDone hreset, s.loaded_of_not_fits hnot, loadResult_of_not_fits hnot]

end Sys2Proof.Machine
end

-- ==== Proofs: family other ====
section
/-! PROOFS. The statements of no single family. -/

/-! ## Encoding and decoding (30_encoding.md) -/

namespace Sys2Proof

/-- The word of a well-formed instruction selects its own arm of the decoder, which reads every field back (R91, R94). -/
theorem decodeWord_encode {i : Instr} (h : i.wf = true) : decodeWord (encode i) = .ok i := by
  cases i with
  | cls | ret => decide
  | drwVxVyN x y n =>
    have hn : n < 16 := Nat.lt_succ_of_le (of_decide_eq_true h)
    simp [encode, decodeWord, Nat.mod_eq_of_lt hn]
  | seVxVy _ _ => simp [encode, decodeWord, decodeFamily5]
  | ldVxVy _ _ | orVxVy _ _ | andVxVy _ _ | xorVxVy _ _ | addVxVy _ _ | subVxVy _ _ | shrVx _ _ | subnVxVy _ _
  | shlVx _ _ => simp [encode, decodeWord, decodeFamily8]
  | sneVxVy _ _ => simp [encode, decodeWord, decodeFamily9]
  | skpVx _ | sknpVx _ => simp [encode, decodeWord, decodeFamilyE]
  | ldVxDt _ | ldVxK _ | ldDtVx _ | ldStVx _ | addIVx _ | ldFVx _ | ldBVx _ | ldMemVx _ | ldVxMem _ =>
    simp [encode, decodeWord, decodeFamilyF]
  | _ => simp [encode, decodeWord]

/-- Two bytes that make a recognized word decode to its instruction, with no byte left over (R90, R61). -/
theorem decode_bytesOfWord {w : Word} {i : Instr} (h : decodeWord w = .ok i) :
    decode (bytesOfWord w) = .ok (i, []) := by
  rw [bytesOfWord, decode, wordOfBytes_bytes, h]
  rfl

/-- Settles O1: the fields of an encoded word are the operands, so the decoder reads them back from the word, and from
its two bytes, which make the word again. -/
theorem encodedInstructionDecodesToItself : Obligations.EncodedInstructionDecodesToItself := fun _ hwf =>
  ⟨decodeWord_encode hwf, decode_bytesOfWord (decodeWord_encode hwf)⟩

/-! ### A recognized word is put together from the fields the decoder read -/

section
variable {w : Word} {op n : BitVec 4} {nn : Byte}

theorem wordNNN_of_opField (hop : (opField w).toNat = op.toNat) : wordNNN op (nnnField w) = w := by
  rw [← BitVec.eq_of_toNat_eq hop, wordNNN_fields]

theorem wordXNN_of_opField (hop : (opField w).toNat = op.toNat) : wordXNN op (xField w) (nnField w) = w := by
  rw [← BitVec.eq_of_toNat_eq hop, wordXNN_fields]

theorem wordXNN_of_opField_nnField (hop : (opField w).toNat = op.toNat) (hnn : (nnField w).toNat = nn.toNat) :
    wordXNN op (xField w) nn = w := by
  rw [← BitVec.eq_of_toNat_eq hnn, wordXNN_of_opField hop]

theorem wordXYN_of_opField (hop : (opField w).toNat = op.toNat) :
    wordXYN op (xField w) (yField w) (nField w) = w := by
  rw [← BitVec.eq_of_toNat_eq hop, wordXYN_fields]

theorem wordXYN_of_opField_nField (hop : (opField w).toNat = op.toNat) (hn : (nField w).toNat = n.toNat) :
    wordXYN op (xField w) (yField w) n = w := by
  rw [← BitVec.eq_of_toNat_eq hn, wordXYN_of_opField hop]

/-- The row count of a decoded draw is a nibble, so encoding it again drops nothing (R92). -/
theorem encode_draw_fields (hop : (opField w).toNat = 0xD) :
    encode (.drwVxVyN (xField w) (yField w) (nField w).toNat) = w ∧
      (Instr.drwVxVyN (xField w) (yField w) (nField w).toNat).wf = true := by
  refine ⟨?_, decide_eq_true (Nat.le_of_lt_succ (nField w).isLt)⟩
  rw [encode, BitVec.ofNat_toNat, BitVec.setWidth_eq]
  exact wordXYN_of_opField hop

end

/-! ### Decoding loses no bit, family by family (R94) -/

section
variable {w : Word} {i : Instr}

theorem encode_of_decodeFamily0 (h : decodeFamily0 w = .ok i) : encode i = w ∧ i.wf = true := by
  unfold decodeFamily0 at h
  split at h <;> cases h
  all_goals
    rename_i hw
    exact ⟨(BitVec.eq_of_toNat_eq hw).symm, rfl⟩

theorem encode_of_decodeFamily5 (hop : (opField w).toNat = 0x5) (h : decodeFamily5 w = .ok i) :
    encode i = w ∧ i.wf = true := by
  unfold decodeFamily5 at h
  split at h <;> cases h
  rename_i hn
  exact ⟨wordXYN_of_opField_nField hop hn, rfl⟩

theorem encode_of_decodeFamily8 (hop : (opField w).toNat = 0x8) (h : decodeFamily8 w = .ok i) :
    encode i = w ∧ i.wf = true := by
  unfold decodeFamily8 at h
  split at h <;> cases h
  all_goals
    rename_i hn
    exact ⟨wordXYN_of_opField_nField hop hn, rfl⟩

theorem encode_of_decodeFamily9 (hop : (opField w).toNat = 0x9) (h : decodeFamily9 w = .ok i) :
    encode i = w ∧ i.wf = true := by
  unfold decodeFamily9 at h
  split at h <;> cases h
  rename_i hn
  exact ⟨wordXYN_of_opField_nField hop hn, rfl⟩

theorem encode_of_decodeFamilyE (hop : (opField w).toNat = 0xE) (h : decodeFamilyE w = .ok i) :
    encode i = w ∧ i.wf = true := by
  unfold decodeFamilyE at h
  split at h <;> cases h
  all_goals
    rename_i hnn
    exact ⟨wordXNN_of_opField_nnField hop hnn, rfl⟩

theorem encode_of_decodeFamilyF (hop : (opField w).toNat = 0xF) (h : decodeFamilyF w = .ok i) :
    encode i = w ∧ i.wf = true := by
  unfold decodeFamilyF at h
  split at h <;> cases h
  all_goals
    rename_i hnn
    exact ⟨wordXNN_of_opField_nnField hop hnn, rfl⟩

theorem encode_of_decodeWord (h : decodeWord w = .ok i) : encode i = w ∧ i.wf = true := by
  unfold decodeWord at h
  split at h
  case h_1 => exact encode_of_decodeFamily0 h
  case h_6 hop => exact encode_of_decodeFamily5 hop h
  case h_9 hop => exact encode_of_decodeFamily8 hop h
  case h_10 hop => exact encode_of_decodeFamily9 hop h
  case h_15 hop => exact encode_of_decodeFamilyE hop h
  case h_16 =>
    have hop : (opField w).toNat = 0xF := by
      have hlt := (opField w).isLt
      simp only [imp_false] at *
      omega
    exact encode_of_decodeFamilyF hop h
  case h_2 hop | h_3 hop | h_11 hop | h_12 hop =>
    cases h
    exact ⟨wordNNN_of_opField hop, rfl⟩
  case h_14 hop =>
    cases h
    exact encode_draw_fields hop
  all_goals
    cases h
    rename_i hop
    exact ⟨wordXNN_of_opField hop, rfl⟩

/-- Settles O2: whichever arm of the decoder answers, the digits it tested and the fields it read are all the bits of
the word. -/
theorem decodedWordEncodesToItself : Obligations.DecodedWordEncodesToItself := fun _ _ => encode_of_decodeWord

end

/-! ### The unrecognized words, family by family (R99) -/

/-- The decoder's answer is no instruction. -/
def Rejected (d : Except Reject Instr) : Prop := ∀ i, d ≠ .ok i

@[simp] theorem rejected_error (e : Reject) : Rejected (.error e) := fun _ => nofun

@[simp] theorem not_rejected_ok (i : Instr) : ¬ Rejected (.ok i) := fun h => h i rfl

/-- The sixteen values a nibble has. -/
theorem nibble_cases (n : BitVec 4) :
    n = 0x0#4 ∨ n = 0x1#4 ∨ n = 0x2#4 ∨ n = 0x3#4 ∨ n = 0x4#4 ∨ n = 0x5#4 ∨ n = 0x6#4 ∨ n = 0x7#4 ∨ n = 0x8#4 ∨
      n = 0x9#4 ∨ n = 0xA#4 ∨ n = 0xB#4 ∨ n = 0xC#4 ∨ n = 0xD#4 ∨ n = 0xE#4 ∨ n = 0xF#4 := by
  revert n
  decide

section
variable (w : Word)

theorem rejected_decodeFamily0 : Rejected (decodeFamily0 w) ↔ w ≠ 0x00E0 ∧ w ≠ 0x00EE := by
  unfold decodeFamily0
  split
  case h_1 hw => simp [show w = 0x00E0 from BitVec.eq_of_toNat_eq hw]
  case h_2 hw => simp [show w = 0x00EE from BitVec.eq_of_toNat_eq hw]
  case h_3 h1 h2 => simpa [BitVec.toNat_eq] using And.intro h1 h2

theorem rejected_decodeFamily5 : Rejected (decodeFamily5 w) ↔ nField w ≠ 0x0 := by
  unfold decodeFamily5
  split
  case h_1 hn => simp [show nField w = 0x0 from BitVec.eq_of_toNat_eq hn]
  case h_2 hn => simpa [BitVec.toNat_eq] using hn

theorem rejected_decodeFamily8 :
    Rejected (decodeFamily8 w) ↔ nField w ∈ [0x8#4, 0x9#4, 0xA#4, 0xB#4, 0xC#4, 0xD#4, 0xF#4] := by
  rcases nibble_cases (nField w) with h | h | h | h | h | h | h | h | h | h | h | h | h | h | h | h <;>
    simp [decodeFamily8, h]

theorem rejected_decodeFamily9 : Rejected (decodeFamily9 w) ↔ nField w ≠ 0x0 := by
  unfold decodeFamily9
  split
  case h_1 hn => simp [show nField w = 0x0 from BitVec.eq_of_toNat_eq hn]
  case h_2 hn => simpa [BitVec.toNat_eq] using hn

theorem rejected_decodeFamilyE : Rejected (decodeFamilyE w) ↔ nnField w ∉ [0x9E#8, 0xA1#8] := by
  unfold decodeFamilyE
  split
  case h_1 hnn => simp [show nnField w = 0x9E#8 from BitVec.eq_of_toNat_eq hnn]
  case h_2 hnn => simp [show nnField w = 0xA1#8 from BitVec.eq_of_toNat_eq hnn]
  case h_3 h1 h2 => simpa [BitVec.toNat_eq] using And.intro h1 h2

theorem rejected_decodeFamilyF : Rejected (decodeFamilyF w) ↔
    nnField w ∉ [0x07#8, 0x0A#8, 0x15#8, 0x18#8, 0x1E#8, 0x29#8, 0x33#8, 0x55#8, 0x65#8] := by
  unfold decodeFamilyF
  split
  case h_10 h1 h2 h3 h4 h5 h6 h7 h8 h9 =>
    exact iff_of_true (rejected_error _) (by simpa [BitVec.toNat_eq] using ⟨h1, h2, h3, h4, h5, h6, h7, h8, h9⟩)
  all_goals
    rename_i hnn
    simp [BitVec.toNat_eq, hnn]

/-- The words that are no instruction are those their family's secondary field rejects (R99); ten families have none. -/
theorem rejected_decodeWord : Rejected (decodeWord w) ↔
    (opField w = 0x0 ∧ w ≠ 0x00E0 ∧ w ≠ 0x00EE) ∨
    (opField w = 0x5 ∧ nField w ≠ 0x0) ∨
    (opField w = 0x8 ∧ nField w ∈ [0x8#4, 0x9#4, 0xA#4, 0xB#4, 0xC#4, 0xD#4, 0xF#4]) ∨
    (opField w = 0x9 ∧ nField w ≠ 0x0) ∨
    (opField w = 0xE ∧ nnField w ∉ [0x9E#8, 0xA1#8]) ∨
    (opField w = 0xF ∧ nnField w ∉ [0x07#8, 0x0A#8, 0x15#8, 0x18#8, 0x1E#8, 0x29#8, 0x33#8, 0x55#8, 0x65#8]) := by
  rcases nibble_cases (opField w) with h | h | h | h | h | h | h | h | h | h | h | h | h | h | h | h <;>
    simp [decodeWord, h, rejected_decodeFamily0, rejected_decodeFamily5, rejected_decodeFamily8,
      rejected_decodeFamily9, rejected_decodeFamilyE, rejected_decodeFamilyF]

/-- Settles O4: the top nibble selects a family, and six of the sixteen families reject some of their words. -/
theorem unrecognizedWordsAreTheComplement : Obligations.UnrecognizedWordsAreTheComplement := rejected_decodeWord

end

/-! ### The rows of the opcode map (R93, R96) -/

theorem rowMatch : ∀ i : Instr, encode i &&& (rowOf i).1 = (rowOf i).2
  | .cls => Laws.RowMatch.cls
  | .ret => Laws.RowMatch.ret
  | .jpNnn nnn => Laws.RowMatch.jpNnn nnn
  | .callNnn nnn => Laws.RowMatch.callNnn nnn
  | .seVxNn x nn => Laws.RowMatch.seVxNn x nn
  | .sneVxNn x nn => Laws.RowMatch.sneVxNn x nn
  | .seVxVy x y => Laws.RowMatch.seVxVy x y
  | .ldVxNn x nn => Laws.RowMatch.ldVxNn x nn
  | .addVxNn x nn => Laws.RowMatch.addVxNn x nn
  | .ldVxVy x y => Laws.RowMatch.ldVxVy x y
  | .orVxVy x y => Laws.RowMatch.orVxVy x y
  | .andVxVy x y => Laws.RowMatch.andVxVy x y
  | .xorVxVy x y => Laws.RowMatch.xorVxVy x y
  | .addVxVy x y => Laws.RowMatch.addVxVy x y
  | .subVxVy x y => Laws.RowMatch.subVxVy x y
  | .shrVx x y => Laws.RowMatch.shrVx x y
  | .subnVxVy x y => Laws.RowMatch.subnVxVy x y
  | .shlVx x y => Laws.RowMatch.shlVx x y
  | .sneVxVy x y => Laws.RowMatch.sneVxVy x y
  | .ldINnn nnn => Laws.RowMatch.ldINnn nnn
  | .jpV0Nnn nnn => Laws.RowMatch.jpV0Nnn nnn
  | .rndVxNn x nn => Laws.RowMatch.rndVxNn x nn
  | .drwVxVyN x y n => Laws.RowMatch.drwVxVyN x y n
  | .skpVx x => Laws.RowMatch.skpVx x
  | .sknpVx x => Laws.RowMatch.sknpVx x
  | .ldVxDt x => Laws.RowMatch.ldVxDt x
  | .ldVxK x => Laws.RowMatch.ldVxK x
  | .ldDtVx x => Laws.RowMatch.ldDtVx x
  | .ldStVx x => Laws.RowMatch.ldStVx x
  | .addIVx x => Laws.RowMatch.addIVx x
  | .ldFVx x => Laws.RowMatch.ldFVx x
  | .ldBVx x => Laws.RowMatch.ldBVx x
  | .ldMemVx x => Laws.RowMatch.ldMemVx x
  | .ldVxMem x => Laws.RowMatch.ldVxMem x

theorem rowOf_mem_opcodeRows (i : Instr) : rowOf i ∈ opcodeRows := by
  cases i <;> simp [rowOf, opcodeRows]

section
variable {w m : Word}

/-! The masks keep the fields that select an arm of the decoder. -/

theorem opField_of_and_F000 (h : w &&& 0xF000 = m) : opField w = opField m := by
  rw [← h, ← wordNNN_fields w, wordNNN_and_F000, opField_wordNNN, opField_wordNNN]

theorem opField_of_and_F00F (h : w &&& 0xF00F = m) : opField w = opField m := by
  rw [← h, ← wordXYN_fields w, wordXYN_and_F00F, opField_wordXYN, opField_wordXYN]

theorem nField_of_and_F00F (h : w &&& 0xF00F = m) : nField w = nField m := by
  rw [← h, ← wordXYN_fields w, wordXYN_and_F00F, nField_wordXYN, nField_wordXYN]

theorem opField_of_and_F0FF (h : w &&& 0xF0FF = m) : opField w = opField m := by
  rw [← h, ← wordXNN_fields w, wordXNN_and_F0FF, opField_wordXNN, opField_wordXNN]

theorem nnField_of_and_F0FF (h : w &&& 0xF0FF = m) : nnField w = nnField m := by
  rw [← h, ← wordXNN_fields w, wordXNN_and_F0FF, nnField_wordXNN, nnField_wordXNN]

/-! A row's format: a word that agrees with the row's match on the mask is the word of the row's instruction, with the
operands the word's other fields give. -/

theorem decodes_of_encode {i : Instr} {row : Word × Word} (henc : encode i = w) (hwf : i.wf = true)
    (hrow : rowOf i = row) : ∃ j, decodeWord w = .ok j ∧ rowOf j = row :=
  ⟨i, henc ▸ decodeWord_encode hwf, hrow⟩

theorem decodes_of_rowNNN {op : BitVec 4} (mk : Addr → Instr)
    (hmk : ∀ nnn, encode (mk nnn) = wordNNN op nnn ∧ (mk nnn).wf = true ∧ rowOf (mk nnn) = (0xF000, m))
    (hm : opField m = op) (h : w &&& 0xF000 = m) : ∃ i, decodeWord w = .ok i ∧ rowOf i = (0xF000, m) := by
  obtain ⟨henc, hwf, hrow⟩ := hmk (nnnField w)
  refine decodes_of_encode (henc.trans ?_) hwf hrow
  rw [← hm, ← opField_of_and_F000 h, wordNNN_fields]

theorem decodes_of_rowXNN {op : BitVec 4} (mk : Reg → Byte → Instr)
    (hmk : ∀ x nn, encode (mk x nn) = wordXNN op x nn ∧ (mk x nn).wf = true ∧ rowOf (mk x nn) = (0xF000, m))
    (hm : opField m = op) (h : w &&& 0xF000 = m) : ∃ i, decodeWord w = .ok i ∧ rowOf i = (0xF000, m) := by
  obtain ⟨henc, hwf, hrow⟩ := hmk (xField w) (nnField w)
  refine decodes_of_encode (henc.trans ?_) hwf hrow
  rw [← hm, ← opField_of_and_F000 h, wordXNN_fields]

theorem decodes_of_rowXYS {op n : BitVec 4} (mk : Reg → Reg → Instr)
    (hmk : ∀ x y, encode (mk x y) = wordXYN op x y n ∧ (mk x y).wf = true ∧ rowOf (mk x y) = (0xF00F, m))
    (hm : opField m = op ∧ nField m = n) (h : w &&& 0xF00F = m) :
    ∃ i, decodeWord w = .ok i ∧ rowOf i = (0xF00F, m) := by
  obtain ⟨henc, hwf, hrow⟩ := hmk (xField w) (yField w)
  refine decodes_of_encode (henc.trans ?_) hwf hrow
  rw [← hm.1, ← hm.2, ← opField_of_and_F00F h, ← nField_of_and_F00F h, wordXYN_fields]

theorem decodes_of_rowXSS {op : BitVec 4} {nn : Byte} (mk : Reg → Instr)
    (hmk : ∀ x, encode (mk x) = wordXNN op x nn ∧ (mk x).wf = true ∧ rowOf (mk x) = (0xF0FF, m))
    (hm : opField m = op ∧ nnField m = nn) (h : w &&& 0xF0FF = m) :
    ∃ i, decodeWord w = .ok i ∧ rowOf i = (0xF0FF, m) := by
  obtain ⟨henc, hwf, hrow⟩ := hmk (xField w)
  refine decodes_of_encode (henc.trans ?_) hwf hrow
  rw [← hm.1, ← hm.2, ← opField_of_and_F0FF h, ← nnField_of_and_F0FF h, wordXNN_fields]

theorem decodes_of_rowDraw (h : w &&& 0xF000 = 0xD000) :
    ∃ i, decodeWord w = .ok i ∧ rowOf i = (0xF000, 0xD000) := by
  obtain ⟨henc, hwf⟩ := encode_draw_fields (w := w) (congrArg BitVec.toNat (opField_of_and_F000 h))
  exact decodes_of_encode henc hwf rfl

/-- A word that matches a row of the opcode map is an instruction of that row, row after row in the map's order. -/
theorem decodes_of_row : ∀ row ∈ opcodeRows, w &&& row.1 = row.2 → ∃ i, decodeWord w = .ok i ∧ rowOf i = row := by
  have hfull {m : Word} (h : w &&& 0xFFFF = m) : m = w := h.symm.trans BitVec.and_allOnes
  simp only [opcodeRows, List.cons_append, List.nil_append, List.forall_mem_cons, List.not_mem_nil, false_implies,
    implies_true, and_true]
  exact ⟨
    fun h => decodes_of_encode (i := .cls) (hfull h) rfl rfl,
    fun h => decodes_of_encode (i := .ret) (hfull h) rfl rfl,
    decodes_of_rowNNN .jpNnn (fun _ => ⟨rfl, rfl, rfl⟩) rfl,
    decodes_of_rowNNN .callNnn (fun _ => ⟨rfl, rfl, rfl⟩) rfl,
    decodes_of_rowXNN .seVxNn (fun _ _ => ⟨rfl, rfl, rfl⟩) rfl,
    decodes_of_rowXNN .sneVxNn (fun _ _ => ⟨rfl, rfl, rfl⟩) rfl,
    decodes_of_rowXYS .seVxVy (fun _ _ => ⟨rfl, rfl, rfl⟩) ⟨rfl, rfl⟩,
    decodes_of_rowXNN .ldVxNn (fun _ _ => ⟨rfl, rfl, rfl⟩) rfl,
    decodes_of_rowXNN .addVxNn (fun _ _ => ⟨rfl, rfl, rfl⟩) rfl,
    decodes_of_rowXYS .ldVxVy (fun _ _ => ⟨rfl, rfl, rfl⟩) ⟨rfl, rfl⟩,
    decodes_of_rowXYS .orVxVy (fun _ _ => ⟨rfl, rfl, rfl⟩) ⟨rfl, rfl⟩,
    decodes_of_rowXYS .andVxVy (fun _ _ => ⟨rfl, rfl, rfl⟩) ⟨rfl, rfl⟩,
    decodes_of_rowXYS .xorVxVy (fun _ _ => ⟨rfl, rfl, rfl⟩) ⟨rfl, rfl⟩,
    decodes_of_rowXYS .addVxVy (fun _ _ => ⟨rfl, rfl, rfl⟩) ⟨rfl, rfl⟩,
    decodes_of_rowXYS .subVxVy (fun _ _ => ⟨rfl, rfl, rfl⟩) ⟨rfl, rfl⟩,
    decodes_of_rowXYS .shrVx (fun _ _ => ⟨rfl, rfl, rfl⟩) ⟨rfl, rfl⟩,
    decodes_of_rowXYS .subnVxVy (fun _ _ => ⟨rfl, rfl, rfl⟩) ⟨rfl, rfl⟩,
    decodes_of_rowXYS .shlVx (fun _ _ => ⟨rfl, rfl, rfl⟩) ⟨rfl, rfl⟩,
    decodes_of_rowXYS .sneVxVy (fun _ _ => ⟨rfl, rfl, rfl⟩) ⟨rfl, rfl⟩,
    decodes_of_rowNNN .ldINnn (fun _ => ⟨rfl, rfl, rfl⟩) rfl,
    decodes_of_rowNNN .jpV0Nnn (fun _ => ⟨rfl, rfl, rfl⟩) rfl,
    decodes_of_rowXNN .rndVxNn (fun _ _ => ⟨rfl, rfl, rfl⟩) rfl,
    decodes_of_rowDraw,
    decodes_of_rowXSS .skpVx (fun _ => ⟨rfl, rfl, rfl⟩) ⟨rfl, rfl⟩,
    decodes_of_rowXSS .sknpVx (fun _ => ⟨rfl, rfl, rfl⟩) ⟨rfl, rfl⟩,
    decodes_of_rowXSS .ldVxDt (fun _ => ⟨rfl, rfl, rfl⟩) ⟨rfl, rfl⟩,
    decodes_of_rowXSS .ldVxK (fun _ => ⟨rfl, rfl, rfl⟩) ⟨rfl, rfl⟩,
    decodes_of_rowXSS .ldDtVx (fun _ => ⟨rfl, rfl, rfl⟩) ⟨rfl, rfl⟩,
    decodes_of_rowXSS .ldStVx (fun _ => ⟨rfl, rfl, rfl⟩) ⟨rfl, rfl⟩,
    decodes_of_rowXSS .addIVx (fun _ => ⟨rfl, rfl, rfl⟩) ⟨rfl, rfl⟩,
    decodes_of_rowXSS .ldFVx (fun _ => ⟨rfl, rfl, rfl⟩) ⟨rfl, rfl⟩,
    decodes_of_rowXSS .ldBVx (fun _ => ⟨rfl, rfl, rfl⟩) ⟨rfl, rfl⟩,
    decodes_of_rowXSS .ldMemVx (fun _ => ⟨rfl, rfl, rfl⟩) ⟨rfl, rfl⟩,
    decodes_of_rowXSS .ldVxMem (fun _ => ⟨rfl, rfl, rfl⟩) ⟨rfl, rfl⟩⟩

end

/-- Settles O3: a recognized word is its instruction's encoding, which the row's mask cuts down to the row's match; a
word that matches a row has the digits that select the arm of that row's instruction; and since the decoder answers one
instruction only, a word that matches two rows has one and the same row. -/
theorem wordIsTheInstructionOfItsRow : Obligations.WordIsTheInstructionOfItsRow := by
  refine ⟨fun w i h => ?_, fun w row => decodes_of_row row, fun w row row' hrow hrow' hw hw' => ?_⟩
  · obtain ⟨rfl, -⟩ := encode_of_decodeWord h
    exact ⟨rowOf_mem_opcodeRows i, rowMatch i⟩
  · obtain ⟨i, hi, rfl⟩ := decodes_of_row row hrow hw
    obtain ⟨j, hj, rfl⟩ := decodes_of_row row' hrow' hw'
    rw [hi] at hj
    cases hj
    rfl

/-- Settles O5: the decoder evaluated on the listed words. -/
theorem sampleWordsDecodeAsListed : Obligations.SampleWordsDecodeAsListed := by
  unfold Obligations.SampleWordsDecodeAsListed
  decide

end Sys2Proof

/-! ## Frames: what a change of state leaves as it was (10_state.md R39) -/

namespace Sys2Proof.Machine

section
variable {s t u : State}

/-- A frame item by item. -/
theorem State.sameBut_iff {changed : List Part} : s.sameBut t changed ↔
    (.mem ∈ changed ∨ t.mem = s.mem) ∧ (.v ∈ changed ∨ t.v = s.v) ∧ (.pc ∈ changed ∨ t.pc = s.pc) ∧
    (.i ∈ changed ∨ t.i = s.i) ∧ (.stack ∈ changed ∨ t.stack = s.stack) ∧ (.sp ∈ changed ∨ t.sp = s.sp) ∧
    (.dt ∈ changed ∨ t.dt = s.dt) ∧ (.st ∈ changed ∨ t.st = s.st) ∧ (.key ∈ changed ∨ t.key = s.key) ∧
    (.fb ∈ changed ∨ t.fb = s.fb) ∧ (.redraw ∈ changed ∨ t.redraw = s.redraw) ∧
    (.fault ∈ changed ∨ t.fault = s.fault) ∧ (.resetDone ∈ changed ∨ t.resetDone = s.resetDone) ∧
    (.draws ∈ changed ∨ t.draws = s.draws) := by
  have hitem : s.sameBut t changed ↔ ∀ p, p ∈ changed ∨ s.agreeOn t p :=
    forall_congr' fun p => or_iff_not_imp_left.symm
  rw [hitem]
  constructor
  · intro h
    exact ⟨h .mem, h .v, h .pc, h .i, h .stack, h .sp, h .dt, h .st, h .key, h .fb, h .redraw, h .fault,
      h .resetDone, h .draws⟩
  · rintro ⟨hmem, hv, hpc, hi, hstack, hsp, hdt, hst, hkey, hfb, hredraw, hfault, hreset, hdraws⟩ p
    cases p
    exacts [hmem, hv, hpc, hi, hstack, hsp, hdt, hst, hkey, hfb, hredraw, hfault, hreset, hdraws]

theorem State.sameBut.mono {changed changed' : List Part} (h : s.sameBut t changed) (hsub : changed ⊆ changed') :
    s.sameBut t changed' := fun p hp => h p fun hmem => hp (hsub hmem)

theorem State.sameBut_raiseFault (s : State) (c : FaultCause) : s.sameBut (s.raiseFault c) [.fault] := by
  simp [State.sameBut_iff]

theorem State.regsSameBut_of_v (h : t.v = s.v) (changed : List Reg) : s.regsSameBut t changed :=
  fun r _ => State.getV_congr h r

theorem State.bytesSameOutside_of_mem (h : t.mem = s.mem) (a len : Nat) : s.bytesSameOutside t a len := by
  intro b _
  rw [h]

theorem State.bytesSameOutside_of_writeBlock {a : Nat} {bs : List Byte} (h : t.mem = Memory.writeBlock s.mem a bs) :
    s.bytesSameOutside t a bs.length := by
  intro b hb
  rw [h]
  exact Memory.read_writeBlock_outside bs s.mem a hb

theorem State.regsSameBut_advance_setResultAndFlag (s : State) (x : Reg) (b : Byte) (f : Bool) :
    s.regsSameBut (s.advance.setResultAndFlag x b f) [x, 0xF] := by
  intro r hr
  obtain ⟨hx, hvf⟩ : r ≠ x ∧ r ≠ vf := by simpa [vf] using hr
  rw [State.getV_setResultAndFlag_other _ hx hvf, State.getV_advance]

end

/-! ## What each instruction that can fault answers (60_exceptions.md R200) -/

section
variable (s : State)

theorem exec_ret_of_zero (h : s.sp.val = 0) : exec .ret s = .next (s.raiseFault .stackUnderflow) := by
  have hexec : exec .ret s = execRet s := rfl
  rw [hexec, execRet, s.pop?_eq_none.2 h]

/-- RET with a call active: SP one lower, pc the entry there, and the entries as they were (R120). -/
theorem exec_ret_of_pos {k : Fin 16} (h : s.sp.val = k.val + 1) :
    exec .ret s = .next (State.jump { s with sp := k.castSucc } s.stack[k]) := by
  obtain ⟨mem, v, pc, i, stack, ⟨sp, hsp⟩, rest⟩ := s
  obtain rfl : sp = k.val + 1 := h
  rfl

theorem exec_callNnn_of_full (nnn : Addr) (h : s.sp.val = 16) :
    exec (.callNnn nnn) s = .next (s.raiseFault .stackOverflow) := by
  have hexec : exec (.callNnn nnn) s = execCallNnn nnn s := rfl
  rw [hexec, execCallNnn, (s.push?_eq_none _).2 h]

/-- CALL with room: the return address at SP, SP one higher, pc the operand (R122). -/
theorem exec_callNnn_of_room (nnn : Addr) {k : Fin 16} (h : s.sp.val = k.val) :
    exec (.callNnn nnn) s =
      .next (State.jump { s with stack := s.stack.set k (s.pc + 2), sp := k.succ } (addrOperand nnn)) := by
  obtain ⟨mem, v, pc, i, stack, ⟨sp, hsp⟩, rest⟩ := s
  obtain rfl : sp = k.val := h
  have hexec : ∀ t : State, exec (.callNnn nnn) t = execCallNnn nnn t := fun _ => rfl
  rw [hexec, execCallNnn, State.push?_of_lt _ _ k.isLt]
  rfl

theorem sp_of_ret_no_fault (h : faultOf .ret s = none) : ∃ k : Fin 16, s.sp.val = k.val + 1 := by
  have hsp : s.sp.val ≠ 0 := fun hzero => absurd ((if_pos hzero).symm.trans h) nofun
  exact ⟨⟨s.sp.val - 1, by omega⟩, (Nat.succ_pred hsp).symm⟩

theorem sp_of_callNnn_no_fault {nnn : Addr} (h : faultOf (.callNnn nnn) s = none) :
    ∃ k : Fin 16, s.sp.val = k.val := by
  have hsp : s.sp.val ≠ 16 := fun hfull => absurd ((if_pos hfull).symm.trans h) nofun
  exact ⟨⟨s.sp.val, by omega⟩, rfl⟩

/-- A data access answers its effect, or the fault when a byte of it does not exist (R64). -/
theorem State.withRange_eq (count : Nat) (t : State) : s.withRange count t =
    .next ((if rangeOk s.i count then none else some .memRange : Option FaultCause).elim t s.raiseFault) := by
  unfold State.withRange
  split <;> rfl

theorem State.withKeyRange_eq (k : Nat) (t : State) : s.withKeyRange k t =
    .next ((if k ≤ 0xF then none else some .keyRange : Option FaultCause).elim t s.raiseFault) := by
  unfold State.withKeyRange
  split <;> rfl

/-! ### The range checks are the conditions of the table -/

theorem faultOf_drwVxVyN (x y : Reg) (n : Nat) :
    faultOf (.drwVxVyN x y n) s = if rangeOk s.i n then none else some .memRange := by
  have hcond : (n > 0 ∧ s.i.toNat + n - 1 > 0xFFF) ↔ ¬ rangeOk s.i n = true := by
    rw [rangeOk_iff]
    omega
  rw [faultOf, if_congr hcond rfl rfl, ite_not]

theorem faultOf_ldBVx (x : Reg) : faultOf (.ldBVx x) s = if rangeOk s.i 3 then none else some .memRange := by
  have hcond : s.i.toNat + 2 > 0xFFF ↔ ¬ rangeOk s.i 3 = true := by
    rw [rangeOk_iff]
    omega
  rw [faultOf, if_congr hcond rfl rfl, ite_not]

theorem pastEnd_iff_not_rangeOk (x : Reg) : s.i.toNat + x.toNat > 0xFFF ↔ ¬ rangeOk s.i (blockLength x) = true := by
  rw [rangeOk_iff, blockLength]
  omega

theorem faultOf_ldMemVx (x : Reg) :
    faultOf (.ldMemVx x) s = if rangeOk s.i (blockLength x) then none else some .memRange := by
  rw [faultOf, if_congr (pastEnd_iff_not_rangeOk s x) rfl rfl, ite_not]

theorem faultOf_ldVxMem (x : Reg) :
    faultOf (.ldVxMem x) s = if rangeOk s.i (blockLength x) then none else some .memRange := by
  rw [faultOf, if_congr (pastEnd_iff_not_rangeOk s x) rfl rfl, ite_not]

theorem faultOf_skpVx (x : Reg) :
    faultOf (.skpVx x) s = if s.keyOperand x ≤ 0xF then none else some .keyRange := by
  rw [faultOf, if_congr (Nat.not_le).symm rfl rfl, ite_not]
  rfl

theorem faultOf_sknpVx (x : Reg) :
    faultOf (.sknpVx x) s = if s.keyOperand x ≤ 0xF then none else some .keyRange := faultOf_skpVx s x

/-! ### The answer: the table's fault if there is one, else the instruction's effect -/

/-- The display after a draw: the framebuffer, REDRAW, and the flag in VF last (R182). -/
def State.afterDraw (x y : Reg) (n : Nat) : State :=
  { s.advance with fb := (s.drawn x y n).1, redraw := true }.setV vf (flagByte (s.drawn x y n).2)

theorem exec_drwVxVyN (x y : Reg) (n : Nat) :
    exec (.drwVxVyN x y n) s = .next ((faultOf (.drwVxVyN x y n) s).elim (s.afterDraw x y n) s.raiseFault) := by
  rw [faultOf_drwVxVyN]
  exact s.withRange_eq n _

theorem exec_ldBVx (x : Reg) : exec (.ldBVx x) s = .next ((faultOf (.ldBVx x) s).elim
    { s.advance with mem := Memory.writeBlock s.mem s.baseAddress (decimalDigits (s.getV x)) } s.raiseFault) := by
  rw [faultOf_ldBVx]
  exact s.withRange_eq 3 _

theorem exec_ldMemVx (x : Reg) : exec (.ldMemVx x) s = .next ((faultOf (.ldMemVx x) s).elim
    { s.advance with mem := Memory.writeBlock s.mem s.baseAddress (s.regsUpTo x) } s.raiseFault) := by
  rw [faultOf_ldMemVx]
  exact s.withRange_eq (blockLength x) _

theorem exec_ldVxMem (x : Reg) : exec (.ldVxMem x) s = .next ((faultOf (.ldVxMem x) s).elim
    { s.advance with v := putRegs s.v 0 (Memory.readBlock s.mem s.baseAddress (blockLength x)) } s.raiseFault) := by
  rw [faultOf_ldVxMem]
  exact s.withRange_eq (blockLength x) _

theorem exec_skpVx (x : Reg) : exec (.skpVx x) s = .next ((faultOf (.skpVx x) s).elim
    (s.advance.skipIf (s.keyDown (s.keyOperand x))) s.raiseFault) := by
  rw [faultOf_skpVx]
  exact s.withKeyRange_eq (s.keyOperand x) _

theorem exec_sknpVx (x : Reg) : exec (.sknpVx x) s = .next ((faultOf (.sknpVx x) s).elim
    (s.advance.skipIf (!s.keyDown (s.keyOperand x))) s.raiseFault) := by
  rw [faultOf_sknpVx]
  exact s.withKeyRange_eq (s.keyOperand x) _

end

/-! ## What every instruction does when it does not fault -/

/-- `t` is what `i`, run from `s` without a fault, may leave: the frames of R39, R23 and R67, FAULT, and R24's pc. -/
structure Completes (i : Instr) (s t : State) : Prop where
  frame : s.sameBut t (writtenParts i)
  fault : t.fault = s.fault
  regs : s.regsSameBut t (writtenRegs i)
  bytes : s.bytesSameOutside t s.baseAddress (storedLength i)
  pc : t.pc = pcAfter i s

section
variable {i : Instr} {s t : State}

/-- An instruction that writes neither registers nor memory. -/
theorem Completes.of_same_v_mem (hframe : s.sameBut t (writtenParts i)) (hfault : t.fault = s.fault)
    (hv : t.v = s.v) (hmem : t.mem = s.mem) (hpc : t.pc = pcAfter i s) : Completes i s t :=
  ⟨hframe, hfault, State.regsSameBut_of_v hv _, State.bytesSameOutside_of_mem hmem _ _, hpc⟩

/-- A skip, on a test for the condition the table of R24 gives. -/
theorem Completes.of_skip {c : Bool} (hframe : [.pc] ⊆ writtenParts i)
    (hpc : pcAfter i s = if c then s.pc + 4 else s.pc + 2) : Completes i s (s.advance.skipIf c) :=
  .of_same_v_mem ((s.sameBut_advance_skipIf c).mono hframe) (State.skipIf_fault _ c) (State.skipIf_v _ c)
    (State.skipIf_mem _ c) ((s.pc_advance_skipIf c).trans hpc.symm)

theorem Completes.of_setV {x : Reg} {b : Byte} (hframe : [.v, .pc] ⊆ writtenParts i) (hregs : writtenRegs i = [x])
    (hpc : pcAfter i s = s.pc + 2) : Completes i s (s.advance.setV x b) where
  frame := (s.sameBut_advance_setV x b).mono hframe
  fault := rfl
  regs := hregs ▸ s.regsSameBut_advance_setV x b
  bytes := State.bytesSameOutside_of_mem rfl _ _
  pc := hpc.symm

theorem Completes.of_setResultAndFlag {x : Reg} {b : Byte} {f : Bool} (hframe : writtenParts i = [.pc, .v])
    (hregs : writtenRegs i = [x, 0xF]) (hpc : pcAfter i s = s.pc + 2) :
    Completes i s (s.advance.setResultAndFlag x b f) where
  frame := by simp [State.sameBut_iff, hframe]
  fault := rfl
  regs := hregs ▸ s.regsSameBut_advance_setResultAndFlag x b f
  bytes := State.bytesSameOutside_of_mem rfl _ _
  pc := hpc.symm

/-- The table's fault on the state before, or without one a next state that `Completes` allows. -/
def FaultsOrCompletes (i : Instr) (s : State) : Prop :=
  ∃ t, exec i s = .next ((faultOf i s).elim t s.raiseFault) ∧ (faultOf i s = none → Completes i s t)

theorem FaultsOrCompletes.of_fault {c : FaultCause} (hfault : faultOf i s = some c)
    (hexec : exec i s = .next (s.raiseFault c)) : FaultsOrCompletes i s :=
  ⟨s, by rw [hfault, hexec]; rfl, fun hnone => absurd (hfault.symm.trans hnone) nofun⟩

theorem FaultsOrCompletes.of_completes (hfault : faultOf i s = none) (hexec : exec i s = .next t)
    (hdone : Completes i s t) : FaultsOrCompletes i s :=
  ⟨t, by rw [hfault, hexec]; rfl, fun _ => hdone⟩

end

section
variable (s : State)

/-- Loading `n` bytes from `a` into V0 upward: a register below `n` gets its cell, the others stay (R166). -/
theorem getV_of_putRegs {t : State} {m : Memory} {a n : Nat} (h : t.v = putRegs s.v 0 (Memory.readBlock m a n))
    (r : Reg) : t.getV r = if r.toNat < n then Memory.read m (a + r.toNat) else s.getV r := by
  have hget : t.getV r = (putRegs s.v 0 (Memory.readBlock m a n))[r.toNat]'r.isLt := by simp only [State.getV, h]
  rw [hget, getElem_putRegs]
  simp [Memory.getElem_readBlock, State.getV]

theorem mem_writtenRegs_ldVxMem {x r : Reg} (h : r.toNat ≤ x.toNat) : r ∈ writtenRegs (.ldVxMem x) :=
  have hback : BitVec.ofNat 4 r.toNat = r := (BitVec.ofNat_toNat 4 r).trans (BitVec.setWidth_eq r)
  List.mem_map.2 ⟨r.toNat, List.mem_range.2 (Nat.lt_succ_of_le h), hback⟩

theorem getD_key_eq_keyDown (k : Nat) : s.key.toList.getD k false = s.keyDown k := by
  simp [State.keyDown, List.getD_eq_getElem?_getD]

theorem stack_getD (k : Fin 16) : s.stack.toList.getD k.val 0 = s.stack[k] := by
  simp [List.getD_eq_getElem?_getD]

/-- The scan of R177 finds nothing exactly when no key of the latch is pressed. -/
theorem firstKey_eq_none_iff : s.firstKey = none ↔ true ∉ s.key.toList := by
  rw [State.firstKey_eq_none, Vector.mem_toList_iff, Vector.mem_iff_getElem]
  constructor
  · rintro h ⟨k, hk, hpressed⟩
    rw [← s.keyDown_of_lt hk, h k hk] at hpressed
    cases hpressed
  · intro h k hk
    rw [s.keyDown_of_lt hk]
    exact Bool.eq_false_iff.2 fun hpressed => h ⟨k, hk, hpressed⟩

theorem exec_ret_completes : FaultsOrCompletes .ret s := by
  by_cases hsp : s.sp.val = 0
  · exact .of_fault (if_pos hsp) (exec_ret_of_zero s hsp)
  · have hnone : faultOf .ret s = none := if_neg hsp
    obtain ⟨k, hk⟩ := sp_of_ret_no_fault s hnone
    refine .of_completes hnone (exec_ret_of_pos s hk) (.of_same_v_mem ?_ rfl rfl rfl ?_)
    · simp [State.sameBut_iff, writtenParts]
    · rw [pcAfter, hk]
      exact (stack_getD s k).symm

theorem exec_callNnn_completes (nnn : Addr) : FaultsOrCompletes (.callNnn nnn) s := by
  by_cases hsp : s.sp.val = 16
  · exact .of_fault (if_pos hsp) (exec_callNnn_of_full s nnn hsp)
  · have hnone : faultOf (.callNnn nnn) s = none := if_neg hsp
    obtain ⟨k, hk⟩ := sp_of_callNnn_no_fault s hnone
    refine .of_completes hnone (exec_callNnn_of_room s nnn hk) (.of_same_v_mem ?_ rfl rfl rfl rfl)
    simp [State.sameBut_iff, writtenParts]

theorem exec_ldVxK_completes (x : Reg) : FaultsOrCompletes (.ldVxK x) s := by
  cases hkey : s.firstKey with
  | none =>
    have hpc : pcAfter (.ldVxK x) s = s.pc := if_neg ((firstKey_eq_none_iff s).1 hkey)
    refine .of_completes rfl (exec_ldVxK_of_none hkey x) (.of_same_v_mem ?_ rfl rfl rfl hpc.symm)
    simp [State.sameBut_iff]
  | some k =>
    have hpressed : true ∈ s.key.toList := by
      by_contra hnone
      rw [(firstKey_eq_none_iff s).2 hnone] at hkey
      cases hkey
    exact .of_completes rfl (exec_ldVxK_of_some hkey x) (.of_setV (by simp [writtenParts]) rfl (if_pos hpressed))

theorem completes_draw (x y : Reg) (n : Nat) : Completes (.drwVxVyN x y n) s (s.afterDraw x y n) where
  frame := by simp [State.sameBut_iff, writtenParts, State.afterDraw]
  fault := rfl
  regs r hr := State.getV_setV_of_ne _ (by simpa [writtenRegs, vf] using hr) _
  bytes := State.bytesSameOutside_of_mem rfl _ _
  pc := rfl

theorem completes_decimal (x : Reg) : Completes (.ldBVx x) s
    { s.advance with mem := Memory.writeBlock s.mem s.baseAddress (decimalDigits (s.getV x)) } where
  frame := by simp [State.sameBut_iff, writtenParts]
  fault := rfl
  regs := State.regsSameBut_of_v rfl _
  bytes := State.bytesSameOutside_of_writeBlock (bs := decimalDigits (s.getV x)) rfl
  pc := rfl

theorem completes_store (x : Reg) : Completes (.ldMemVx x) s
    { s.advance with mem := Memory.writeBlock s.mem s.baseAddress (s.regsUpTo x) } where
  frame := by simp [State.sameBut_iff, writtenParts]
  fault := rfl
  regs := State.regsSameBut_of_v rfl _
  bytes := by
    rw [storedLength, blockLength, ← s.length_regsUpTo x]
    exact State.bytesSameOutside_of_writeBlock rfl
  pc := rfl

theorem completes_load (x : Reg) : Completes (.ldVxMem x) s
    { s.advance with v := putRegs s.v 0 (Memory.readBlock s.mem s.baseAddress (blockLength x)) } where
  frame := by simp [State.sameBut_iff, writtenParts]
  fault := rfl
  regs r hr := by
    have habove : ¬ r.toNat < blockLength x := fun hlt => hr (mem_writtenRegs_ldVxMem (Nat.le_of_lt_succ hlt))
    rw [getV_of_putRegs s rfl, if_neg habove]
  bytes := State.bytesSameOutside_of_mem rfl _ _
  pc := rfl

/-- Every instruction answers the table's fault on the state before it, or, without one, what it may leave. -/
theorem exec_completes (i : Instr) : FaultsOrCompletes i s := by
  cases i with
  | ret => exact exec_ret_completes s
  | callNnn nnn => exact exec_callNnn_completes s nnn
  | ldVxK x => exact exec_ldVxK_completes s x
  | skpVx x =>
    refine ⟨_, exec_skpVx s x, fun _ => .of_skip (by simp [writtenParts]) ?_⟩
    rw [pcAfter, getD_key_eq_keyDown]
    rfl
  | sknpVx x =>
    refine ⟨_, exec_sknpVx s x, fun _ => .of_skip (by simp [writtenParts]) ?_⟩
    rw [pcAfter, getD_key_eq_keyDown, State.keyOperand]
    cases s.keyDown (s.getV x).toNat <;> rfl
  | drwVxVyN x y n => exact ⟨_, exec_drwVxVyN s x y n, fun _ => completes_draw s x y n⟩
  | ldBVx x => exact ⟨_, exec_ldBVx s x, fun _ => completes_decimal s x⟩
  | ldMemVx x => exact ⟨_, exec_ldMemVx s x, fun _ => completes_store s x⟩
  | ldVxMem x => exact ⟨_, exec_ldVxMem s x, fun _ => completes_load s x⟩
  | seVxNn _ _ | sneVxNn _ _ | seVxVy _ _ | sneVxVy _ _ =>
    exact ⟨_, rfl, fun _ => .of_skip (by simp [writtenParts]) (by simp [pcAfter])⟩
  | addVxVy _ _ | subVxVy _ _ | subnVxVy _ _ | shrVx _ _ | shlVx _ _ =>
    exact ⟨_, rfl, fun _ => .of_setResultAndFlag rfl rfl rfl⟩
  | ldVxNn _ _ | addVxNn _ _ | ldVxVy _ _ | orVxVy _ _ | andVxVy _ _ | xorVxVy _ _ | ldVxDt _ =>
    exact ⟨_, rfl, fun _ => .of_setV (by simp [writtenParts]) rfl rfl⟩
  | rndVxNn x nn =>
    refine ⟨_, rfl, fun _ => ⟨?_, rfl, s.drawRandom.2.regsSameBut_advance_setV x _, ?_, rfl⟩⟩
    · simp [State.sameBut_iff, writtenParts]
    · exact State.bytesSameOutside_of_mem rfl _ _
  | cls | jpNnn _ | jpV0Nnn _ | ldINnn _ | addIVx _ | ldFVx _ | ldDtVx _ | ldStVx _ =>
    refine ⟨_, rfl, fun _ => .of_same_v_mem ?_ rfl rfl rfl rfl⟩
    simp [State.sameBut_iff, writtenParts]

end

/-! ### An instruction that answers `t`, inverted -/

section
variable {i : Instr} {s t : State}

theorem exec_of_faultOf {c : FaultCause} (hfault : faultOf i s = some c) : exec i s = .next (s.raiseFault c) := by
  obtain ⟨t, hexec, -⟩ := exec_completes s i
  rw [hexec, hfault]
  rfl

theorem exec_of_no_fault (hfault : faultOf i s = none) : ∃ t, exec i s = .next t ∧ Completes i s t := by
  obtain ⟨t, hexec, hdone⟩ := exec_completes s i
  refine ⟨t, ?_, hdone hfault⟩
  rw [hexec, hfault]
  rfl

theorem exec_cases (i : Instr) (s : State) : (∃ c, faultOf i s = some c ∧ exec i s = .next (s.raiseFault c)) ∨
    (faultOf i s = none ∧ ∃ t, exec i s = .next t ∧ Completes i s t) := by
  cases hfault : faultOf i s with
  | some c => exact .inl ⟨c, rfl, exec_of_faultOf hfault⟩
  | none => exact .inr ⟨rfl, exec_of_no_fault hfault⟩

/-- The cause an instruction raises is never the reset value, and only an instruction with FAULT in its row of the
access matrix raises one. -/
theorem faultOf_eq_some {c : FaultCause} (h : faultOf i s = some c) : c ≠ .none ∧ .fault ∈ writtenParts i := by
  cases i with
  | ret | callNnn _ | drwVxVyN _ _ _ | ldBVx _ | ldMemVx _ | ldVxMem _ | skpVx _ | sknpVx _ =>
    obtain ⟨-, hcause⟩ := Option.ite_none_right_eq_some.1 h
    cases hcause
    exact ⟨nofun, by simp [writtenParts]⟩
  | _ => cases h

/-- Settles O47: the fault is what `exec_of_faultOf` gives, and without one FAULT is among what `Completes` keeps. -/
theorem instructionsFaultExactlyByTheTable : Obligations.InstructionsFaultExactlyByTheTable := by
  refine fun i s => ⟨fun c => exec_of_faultOf, fun hnone => ?_⟩
  obtain ⟨t, hexec, hdone⟩ := exec_of_no_fault hnone
  exact ⟨t, hexec, hdone.fault⟩

/-- Settles O43: a completed instruction has the frame of its row; a fault writes FAULT alone, which stands in the row
of every instruction that can fault. -/
theorem instructionsKeepToTheAccessMatrix : Obligations.InstructionsKeepToTheAccessMatrix := by
  intro i s
  obtain ⟨c, hfault, hexec⟩ | ⟨-, t, hexec, hdone⟩ := exec_cases i s
  · exact ⟨_, hexec, (s.sameBut_raiseFault c).mono (by simpa using (faultOf_eq_some hfault).2)⟩
  · exact ⟨t, hexec, hdone.frame⟩

/-- Settles O44: a fault writes no register. -/
theorem instructionsKeepToTheirRegisters : Obligations.InstructionsKeepToTheirRegisters := by
  intro i s
  obtain ⟨c, -, hexec⟩ | ⟨-, t, hexec, hdone⟩ := exec_cases i s
  · exact ⟨_, hexec, State.regsSameBut_of_v rfl _⟩
  · exact ⟨t, hexec, hdone.regs⟩

/-- Settles O45: a fault stores nothing. -/
theorem instructionsKeepToTheirStoredBytes : Obligations.InstructionsKeepToTheirStoredBytes := by
  intro i s
  obtain ⟨c, -, hexec⟩ | ⟨-, t, hexec, hdone⟩ := exec_cases i s
  · exact ⟨_, hexec, State.bytesSameOutside_of_mem rfl _ _⟩
  · exact ⟨t, hexec, hdone.bytes⟩

/-- Settles O46: pc is one of the things `Completes` fixes. -/
theorem pcAfterEveryInstruction : Obligations.PcAfterEveryInstruction := by
  intro i s hnone
  obtain ⟨t, hexec, hdone⟩ := exec_of_no_fault hnone
  exact ⟨t, hexec, hdone.pc⟩

/-- What an instruction's row of the access matrix leaves out is as before, whether or not it faults (R39). -/
theorem exec_agreeOn {p : Part} (h : exec i s = .next t) (hp : p ∉ writtenParts i) : s.agreeOn t p := by
  obtain ⟨u, hexec, hframe⟩ := instructionsKeepToTheAccessMatrix i s
  rw [h] at hexec
  cases hexec
  exact hframe p hp

end

/-! ## What every step does (30_encoding.md R100) -/

/-- Everything a step that answers can be: nothing on a faulted machine (R204); a fault of the fetch or of the
instruction, which is its whole effect (R203); a no-op or a completed instruction, and then the timers' tick. -/
inductive StepTo (s : State) : State → Prop where
  | idle (hfaulted : s.fault.valid = true) : StepTo s s
  | fault {c : FaultCause} (hcause : c ≠ .none) (hrunning : s.fault.valid = false) : StepTo s (s.raiseFault c)
  | noOp (hpc : s.pc.toNat ≤ 0xFFE) (hrunning : s.fault.valid = false) : StepTo s s.advance.tickTimers
  | instr {i : Instr} {u : State} (hpc : s.pc.toNat ≤ 0xFFE) (hrunning : s.fault.valid = false)
      (hdecode : decodeWord s.fetchWord = .ok i) (hnone : faultOf i s = none) (hexec : exec i s = .next u)
      (hdone : Completes i s u) : StepTo s u.tickTimers

section
variable {s t : State}

/-- `runFetched` read off the decoder's answer (R93, R98). -/
theorem runFetched_cases (s : State) :
    (∃ i, decodeWord s.fetchWord = .ok i ∧ runFetched s = exec i s) ∨
    ((∀ i, decodeWord s.fetchWord ≠ .ok i) ∧ runFetched s = .next s.advance) := by
  cases hdecode : decodeWord s.fetchWord with
  | ok i => exact .inl ⟨i, rfl, runFetched_of_decoded hdecode⟩
  | error e =>
    have hnone : ∀ i, decodeWord s.fetchWord ≠ .ok i := by simp [hdecode]
    exact .inr ⟨fun i => nofun, runFetched_of_unrecognized hnone⟩

theorem step_cases (h : step s = .next t) : StepTo s t ∧ s.resetDone = true := by
  obtain ⟨-, hs⟩ | ⟨hr, hf, hs⟩ | ⟨hr, hf, -, hs⟩ | ⟨hr, hf, hpc, hs⟩ := s.stepWith_cases runFetched <;>
    rw [← step, h] at hs
  · cases hs
  · cases hs
    exact ⟨.idle hf, hr⟩
  · cases hs
    exact ⟨.fault nofun hf, hr⟩
  · obtain ⟨i, hdecode, hrun⟩ | ⟨-, hrun⟩ := runFetched_cases s
    · obtain ⟨c, hfault, hexec⟩ | ⟨hnone, u, hexec, hdone⟩ := exec_cases i s
      · rw [hrun, hexec, endOfStep_of_faulted rfl] at hs
        cases hs
        exact ⟨.fault (faultOf_eq_some hfault).1 hf, hr⟩
      · rw [hrun, hexec, endOfStep_of_running (by rw [hdone.fault, hf])] at hs
        cases hs
        exact ⟨.instr hpc hf hdecode hnone hexec hdone, hr⟩
    · rw [hrun, endOfStep_of_running (show s.advance.fault.valid = false from hf)] at hs
      cases hs
      exact ⟨.noOp hpc hf, hr⟩

end

end Sys2Proof.Machine

namespace Sys2Proof.Machine

/-! ## The step's outcomes (60_exceptions.md section 1) -/

section
variable {s t : State}

theorem exec_answers (i : Instr) (s : State) : ∃ t, exec i s = .next t := by
  obtain ⟨t, hexec, -⟩ := exec_completes s i
  exact ⟨_, hexec⟩

/-- A running machine that can fetch ends its step after what `exec` answers for the fetched instruction (R100). -/
theorem step_of_decoded {i : Instr} (hrun : s.Running) (hpc : s.pc.toNat ≤ 0xFFE)
    (hdecode : decodeWord s.fetchWord = .ok i) : step s = endOfStep (exec i s) := by
  rw [step_of_running hrun hpc, runFetched_of_decoded hdecode]

/-- Settles O8: the end of the step ticks the timers of a state that is not faulted. -/
theorem stepRunsTheDecodedInstruction : Obligations.StepRunsTheDecodedInstruction := by
  intro s t i hrun hpc hdecode hexec
  rw [step_of_decoded hrun hpc hdecode, hexec]
  rfl

theorem step_of_pc_past_end (hrun : s.Running) (hpc : s.pc.toNat > 0xFFE) :
    step s = .next (s.raiseFault .fetchRange) :=
  State.stepWith_outOfRange hrun.1 hrun.2 hpc runFetched

/-- Settles O12: the fetch is checked before anything runs. -/
theorem fetchPastTheEndFaults : Obligations.FetchPastTheEndFaults :=
  fun _ hrun hpc => ⟨step_of_pc_past_end hrun hpc, rfl⟩

/-- The step's fault in the two places of R206: the fetch, else the fetched instruction. -/
theorem stepFault_eq_some {c : FaultCause} (h : stepFault s = some c) :
    (s.pc.toNat > 0xFFE ∧ c = .fetchRange) ∨
      (s.pc.toNat ≤ 0xFFE ∧ ∃ i, decodeWord s.fetchWord = .ok i ∧ faultOf i s = some c) := by
  unfold stepFault at h
  split at h
  · next hpc =>
    cases h
    exact .inl ⟨hpc, rfl⟩
  · next hpc =>
    split at h
    · next i hdecode => exact .inr ⟨Nat.le_of_not_lt hpc, i, hdecode, h⟩
    · cases h

theorem stepFault_eq_none (h : stepFault s = none) :
    s.pc.toNat ≤ 0xFFE ∧ ∀ i, decodeWord s.fetchWord = .ok i → faultOf i s = none := by
  unfold stepFault at h
  split at h
  · cases h
  · next hpc =>
    refine ⟨Nat.le_of_not_lt hpc, fun i hdecode => ?_⟩
    rwa [hdecode] at h

theorem step_of_stepFault {c : FaultCause} (hrun : s.Running) (h : stepFault s = some c) :
    step s = .next (s.raiseFault c) := by
  obtain ⟨hpc, rfl⟩ | ⟨hpc, i, hdecode, hfault⟩ := stepFault_eq_some h
  · exact step_of_pc_past_end hrun hpc
  · rw [step_of_decoded hrun hpc hdecode, exec_of_faultOf hfault, endOfStep_of_faulted rfl]

theorem step_of_no_stepFault (hrun : s.Running) (h : stepFault s = none) :
    ∃ t, step s = .next t ∧ t.fault = s.fault := by
  obtain ⟨hpc, hnone⟩ := stepFault_eq_none h
  by_cases hrej : ∀ i, decodeWord s.fetchWord ≠ .ok i
  · exact ⟨_, step_of_unrecognized hrun hpc hrej, rfl⟩
  · push Not at hrej
    obtain ⟨i, hdecode⟩ := hrej
    obtain ⟨t, hexec, hdone⟩ := exec_of_no_fault (hnone i hdecode)
    have hrunning : t.fault.valid = false := by rw [hdone.fault, hrun.2]
    refine ⟨t.tickTimers, ?_, hdone.fault⟩
    rw [step_of_decoded hrun hpc hdecode, hexec, endOfStep_of_running hrunning]

/-- Settles O15: the two places a step's fault can come from, the fetch first, and what each does. -/
theorem stepFaultsExactlyByTheTable : Obligations.StepFaultsExactlyByTheTable :=
  ⟨fun _ hrun _ h => step_of_stepFault hrun h, fun _ hrun h => step_of_no_stepFault hrun h,
    rfl, rfl, rfl, rfl, rfl, rfl⟩

/-- Settles O14: before and after the fetch's check a step answers, and every instruction does. -/
theorem stepAlwaysAnswersANextState : Obligations.StepAlwaysAnswersANextState := by
  refine ⟨fun s hreset => ?_, exec_answers⟩
  cases hf : s.fault.valid with
  | true => exact ⟨s, State.stepWith_faulted hreset hf runFetched⟩
  | false =>
    cases h : stepFault s with
    | some c => exact ⟨_, step_of_stepFault ⟨hreset, hf⟩ h⟩
    | none =>
      obtain ⟨t, hstep, -⟩ := step_of_no_stepFault ⟨hreset, hf⟩ h
      exact ⟨t, hstep⟩

/-- Settles O16: of the ways a running machine's step can end, only fault entry leaves FAULT valid. -/
theorem faultIsTheWholeEffectOfItsStep : Obligations.FaultIsTheWholeEffectOfItsStep := by
  intro s t hrun hstep hvalid
  cases (step_cases hstep).1 with
  | idle hfaulted => exact absurd hfaulted (by simp [hrun.2])
  | fault hcause => exact ⟨s.sameBut_raiseFault _, hcause⟩
  | noOp _ hrunning => exact absurd hvalid (by simp [hrunning])
  | instr _ hrunning _ _ _ hdone => exact absurd hvalid (by simp [hdone.fault, hrunning])

end

/-! ## Whole-machine frames of a step (10_state.md section 15) -/

theorem State.agreeOn_refl (s : State) (p : Part) : s.agreeOn s p := by cases p <;> rfl

theorem State.agreeOn.trans {s t u : State} {p : Part} (h : s.agreeOn t p) (h' : t.agreeOn u p) : s.agreeOn u p := by
  cases p <;> exact Eq.trans h' h

section
variable {i : Instr} {s t : State}

/-- An item other than pc, the timers and FAULT that the fetched instruction's row of the access matrix leaves out is
as it was before the step. -/
theorem step_agreeOn {p : Part} (h : step s = .next t) (hp : p ∉ [Part.pc, .dt, .st, .fault])
    (hrow : ∀ i, decodeWord s.fetchWord = .ok i → p ∉ writtenParts i) : s.agreeOn t p := by
  obtain ⟨⟨hpc, htimers, hfault⟩, hnoOp⟩ :
      (p ≠ .pc ∧ p ∉ [Part.dt, .st] ∧ p ∉ [Part.fault]) ∧ p ∉ [Part.pc, .dt, .st] := by
    simp only [List.mem_cons, List.not_mem_nil, or_false, not_or] at hp ⊢
    tauto
  cases (step_cases h).1 with
  | idle => exact s.agreeOn_refl p
  | fault => exact s.sameBut_raiseFault _ p hfault
  | noOp => exact s.sameBut_advance_tickTimers p hnoOp
  | @instr i u _ _ hdecode _ hexec =>
    exact (exec_agreeOn hexec (hrow i hdecode)).trans (u.sameBut_tickTimers p htimers)

/-- The items only the host writes stand in no row of the access matrix. -/
theorem hostItems_not_written (i : Instr) : .key ∉ writtenParts i ∧ .resetDone ∉ writtenParts i := by
  cases i <;> simp [writtenParts]

theorem writes_display (h : .fb ∈ writtenParts i ∨ .redraw ∈ writtenParts i) :
    i = .cls ∨ ∃ x y n, i = .drwVxVyN x y n := by
  cases i with
  | cls => exact .inl rfl
  | drwVxVyN x y n => exact .inr ⟨x, y, n, rfl⟩
  | _ => simp [writtenParts] at h

theorem writes_mem (h : .mem ∈ writtenParts i) : (∃ x, i = .ldBVx x) ∨ ∃ x, i = .ldMemVx x := by
  cases i with
  | ldBVx x => exact .inl ⟨x, rfl⟩
  | ldMemVx x => exact .inr ⟨x, rfl⟩
  | _ => simp [writtenParts] at h

theorem writes_i (h : .i ∈ writtenParts i) :
    (∃ nnn, i = .ldINnn nnn) ∨ (∃ x, i = .addIVx x) ∨ ∃ x, i = .ldFVx x := by
  cases i with
  | ldINnn nnn => exact .inl ⟨nnn, rfl⟩
  | addIVx x => exact .inr (.inl ⟨x, rfl⟩)
  | ldFVx x => exact .inr (.inr ⟨x, rfl⟩)
  | _ => simp [writtenParts] at h

theorem writes_stack (h : .stack ∈ writtenParts i) : ∃ nnn, i = .callNnn nnn := by
  cases i with
  | callNnn nnn => exact ⟨nnn, rfl⟩
  | _ => simp [writtenParts] at h

theorem writes_sp (h : .sp ∈ writtenParts i) : i = .ret ∨ ∃ nnn, i = .callNnn nnn := by
  cases i with
  | ret => exact .inl rfl
  | callNnn nnn => exact .inr ⟨nnn, rfl⟩
  | _ => simp [writtenParts] at h

/-- Settles O49: each of the four items stands in the rows of the named instructions only. -/
theorem stepWritesOnlyThroughTheNamedInstructions : Obligations.StepWritesOnlyThroughTheNamedInstructions := by
  intro s t h
  refine ⟨fun hcls hdrw => ?_, fun hdecimal hstore => ?_, fun hload hadd hglyph => ?_, fun hcall => ?_⟩
  · refine step_agreeOn (p := .fb) h (by simp) fun i hdecode hwrites => ?_
    obtain rfl | ⟨x, y, n, rfl⟩ := writes_display (.inl hwrites)
    · exact hcls hdecode
    · exact hdrw x y n hdecode
  · refine step_agreeOn (p := .mem) h (by simp) fun i hdecode hwrites => ?_
    obtain ⟨x, rfl⟩ | ⟨x, rfl⟩ := writes_mem hwrites
    · exact hdecimal x hdecode
    · exact hstore x hdecode
  · refine step_agreeOn (p := .i) h (by simp) fun i hdecode hwrites => ?_
    obtain ⟨nnn, rfl⟩ | ⟨x, rfl⟩ | ⟨x, rfl⟩ := writes_i hwrites
    · exact hload nnn hdecode
    · exact hadd x hdecode
    · exact hglyph x hdecode
  · refine step_agreeOn (p := .stack) h (by simp) fun i hdecode hwrites => ?_
    obtain ⟨nnn, rfl⟩ := writes_stack hwrites
    exact hcall nnn hdecode

/-! ### The rows that do write an item, without a fault -/

theorem exec_drwVxVyN_of_no_fault {x y : Reg} {n : Nat} (h : faultOf (.drwVxVyN x y n) s = none) :
    exec (.drwVxVyN x y n) s = .next (s.afterDraw x y n) := by
  rw [exec_drwVxVyN, h]
  rfl

theorem exec_ldBVx_of_no_fault {x : Reg} (h : faultOf (.ldBVx x) s = none) : exec (.ldBVx x) s =
    .next { s.advance with mem := Memory.writeBlock s.mem s.baseAddress (decimalDigits (s.getV x)) } := by
  rw [exec_ldBVx, h]
  rfl

theorem exec_ldMemVx_of_no_fault {x : Reg} (h : faultOf (.ldMemVx x) s = none) : exec (.ldMemVx x) s =
    .next { s.advance with mem := Memory.writeBlock s.mem s.baseAddress (s.regsUpTo x) } := by
  rw [exec_ldMemVx, h]
  rfl

theorem exec_ldVxMem_of_no_fault {x : Reg} (h : faultOf (.ldVxMem x) s = none) : exec (.ldVxMem x) s =
    .next { s.advance with v := putRegs s.v 0 (Memory.readBlock s.mem s.baseAddress (blockLength x)) } := by
  rw [exec_ldVxMem, h]
  rfl

theorem toNat_add_le {a b : Word} {m n : Nat} (ha : a.toNat ≤ m) (hb : b.toNat ≤ n) : (a + b).toNat ≤ m + n := by
  rw [BitVec.toNat_add]
  exact (Nat.mod_le _ _).trans (Nat.add_le_add ha hb)

/-- The entry a push writes, and the others (R122). -/
theorem stack_set_self {stack : Vector Word 16} {k : Fin 16} {w : Word} : (stack.set k w)[k] = w := by simp

theorem stack_set_of_ne {stack : Vector Word 16} {k j : Fin 16} {w : Word} (h : k ≠ j) :
    (stack.set j w)[k] = stack[k] := by
  have hval : j.val ≠ k.val := fun heq => h (Fin.ext heq.symm)
  simp [hval]

section
variable (hnone : faultOf i s = none) (hexec : exec i s = .next t)
include hnone hexec

/-- REDRAW is only ever set (R33). -/
theorem exec_keeps_redraw (h : s.redraw = true) : t.redraw = true := by
  by_cases hrow : .redraw ∈ writtenParts i
  · obtain rfl | ⟨x, y, n, rfl⟩ := writes_display (.inr hrow)
    · rw [exec_cls] at hexec
      cases hexec
      rfl
    · rw [exec_drwVxVyN_of_no_fault hnone] at hexec
      cases hexec
      rfl
  · have hsame : t.redraw = s.redraw := exec_agreeOn hexec hrow
    rw [hsame, h]

/-- SP moves by one call or one return (R28). -/
theorem exec_sp_near : t.sp.val ≤ s.sp.val + 1 ∧ s.sp.val ≤ t.sp.val + 1 := by
  by_cases hrow : .sp ∈ writtenParts i
  · obtain rfl | ⟨nnn, rfl⟩ := writes_sp hrow
    · obtain ⟨k, hk⟩ := sp_of_ret_no_fault s hnone
      rw [exec_ret_of_pos s hk] at hexec
      cases hexec
      change k.val ≤ s.sp.val + 1 ∧ s.sp.val ≤ k.val + 1
      omega
    · obtain ⟨k, hk⟩ := sp_of_callNnn_no_fault s hnone
      rw [exec_callNnn_of_room s nnn hk] at hexec
      cases hexec
      change k.val + 1 ≤ s.sp.val + 1 ∧ s.sp.val ≤ k.val + 1 + 1
      omega
  · have hsame : t.sp = s.sp := exec_agreeOn hexec hrow
    simp [hsame]

/-- Stores keep memory in canonical form. -/
theorem exec_keeps_memWf (h : Memory.wf s.mem = true) : Memory.wf t.mem = true := by
  by_cases hrow : .mem ∈ writtenParts i
  · obtain ⟨x, rfl⟩ | ⟨x, rfl⟩ := writes_mem hrow
    · rw [exec_ldBVx_of_no_fault hnone] at hexec
      cases hexec
      exact Memory.writeBlock_wf h
    · rw [exec_ldMemVx_of_no_fault hnone] at hexec
      cases hexec
      exact Memory.writeBlock_wf h
  · have hsame : t.mem = s.mem := exec_agreeOn hexec hrow
    rw [hsame, h]

/-- A call from a fetchable pc pushes at most 0x1000 (R24). -/
theorem exec_keeps_stackBound (hpc : s.pc.toNat ≤ 0xFFE) (h : ∀ k : Fin 16, s.stack[k].toNat ≤ 0x1000) :
    ∀ k : Fin 16, t.stack[k].toNat ≤ 0x1000 := by
  by_cases hrow : .stack ∈ writtenParts i
  · obtain ⟨nnn, rfl⟩ := writes_stack hrow
    obtain ⟨j, hj⟩ := sp_of_callNnn_no_fault s hnone
    rw [exec_callNnn_of_room s nnn hj] at hexec
    cases hexec
    intro k
    change (s.stack.set j (s.pc + 2))[k].toNat ≤ 0x1000
    by_cases hk : k = j
    · have hpushed : (s.pc + 2).toNat ≤ 0x1000 := toNat_add_le hpc (n := 2) (by decide)
      rw [hk, stack_set_self]
      exact hpushed
    · rw [stack_set_of_ne hk]
      exact h k
  · have hsame : t.stack = s.stack := exec_agreeOn hexec hrow
    rwa [hsame]

end

/-- Settles O48: KEY and RESET_DONE stand in no row of the access matrix, and no row clears REDRAW or moves SP by more
than one. -/
theorem stepNeverWritesTheHostsItems : Obligations.StepNeverWritesTheHostsItems := by
  intro s t h
  have hkey : t.key = s.key := step_agreeOn (p := .key) h (by simp) fun i _ => (hostItems_not_written i).1
  have hreset : t.resetDone = s.resetDone :=
    step_agreeOn (p := .resetDone) h (by simp) fun i _ => (hostItems_not_written i).2
  cases (step_cases h).1 with
  | instr _ _ _ hnone hexec =>
    have hredraw := exec_keeps_redraw hnone hexec
    have hsp := exec_sp_near hnone hexec
    exact ⟨hkey, hredraw, hreset, hsp⟩
  | idle | fault | noOp => exact ⟨hkey, id, hreset, Nat.le_succ _, Nat.le_succ _⟩

end

/-! ## The invariant (10_state.md section 4) -/

section
variable {i : Instr} {s t : State}

/-- Where an instruction at a fetchable pc can go: no further than `Bnnn`'s 0xFF + 0xFFF (R24). -/
theorem pcAfter_le (hnone : faultOf i s = none) (hpc : s.pc.toNat ≤ 0xFFE)
    (hstack : ∀ k : Fin 16, s.stack[k].toNat ≤ 0x1000) : (pcAfter i s).toNat ≤ 0x10FE := by
  have hhere : s.pc.toNat ≤ 0x10FE := hpc.trans (by decide)
  have hnext : (s.pc + 2).toNat ≤ 0x10FE := (toNat_add_le hpc (n := 2) (by decide)).trans (by decide)
  have hskip : (s.pc + 4).toNat ≤ 0x10FE := (toNat_add_le hpc (n := 4) (by decide)).trans (by decide)
  have haddr (nnn : Addr) : (nnn.setWidth 16).toNat ≤ 0xFFF := by
    rw [BitVec.toNat_setWidth_of_le (by decide)]
    exact Nat.le_of_lt_succ nnn.isLt
  have hbyte (b : Byte) : (b.setWidth 16).toNat ≤ 0xFF := by
    rw [BitVec.toNat_setWidth_of_le (by decide)]
    exact Nat.le_of_lt_succ b.isLt
  cases i with
  | jpNnn nnn | callNnn nnn => exact (haddr nnn).trans (by decide)
  | jpV0Nnn nnn => exact toNat_add_le (hbyte (s.getV 0)) (haddr nnn)
  | ret =>
    obtain ⟨k, hk⟩ := sp_of_ret_no_fault s hnone
    have hpopped : pcAfter .ret s = s.stack[k] := by
      rw [pcAfter, hk]
      exact stack_getD s k
    rw [hpopped]
    exact (hstack k).trans (by decide)
  | seVxNn _ _ | sneVxNn _ _ | seVxVy _ _ | sneVxVy _ _ | skpVx _ | sknpVx _ | ldVxK _ =>
    rw [pcAfter]
    split <;> assumption
  | _ => exact hnext

/-- Settles O52: a fault touches FAULT alone and gives it a cause; what else a step can be starts at a fetchable pc,
stores in canonical form, pushes at most pc + 2 and leaves FAULT and RESET_DONE. -/
theorem stepKeepsTheInvariant : Obligations.StepKeepsTheInvariant := by
  intro s t hinv h
  cases (step_cases h).1 with
  | idle => exact hinv
  | fault hcause => exact ⟨hinv.memWf, hinv.pcBound, hinv.stackBound, iff_of_true rfl hcause, hinv.resetRan⟩
  | noOp hpc =>
    have hnext : (s.pc + 2).toNat ≤ 0x10FE := (toNat_add_le hpc (n := 2) (by decide)).trans (by decide)
    exact ⟨hinv.memWf, hnext, hinv.stackBound, hinv.faultWf, hinv.resetRan⟩
  | @instr i u hpc _ _ hnone hexec hdone =>
    have hmem := exec_keeps_memWf hnone hexec hinv.memWf
    have hto : u.pc.toNat ≤ 0x10FE := hdone.pc ▸ pcAfter_le hnone hpc hinv.stackBound
    have hstack := exec_keeps_stackBound hnone hexec hpc hinv.stackBound
    have hfault : u.fault.valid = true ↔ u.fault.cause ≠ .none := hdone.fault ▸ hinv.faultWf
    have hreset : u.resetDone = s.resetDone := exec_agreeOn hexec (hostItems_not_written i).2
    exact ⟨hmem, hto, hstack, hfault, hreset.trans hinv.resetRan⟩

end

end Sys2Proof.Machine

namespace Sys2Proof.Machine

/-! ## The host's operations (60_exceptions.md section 5, 70_reset_and_hazards.md) -/

section
variable {α : Type} {s t : State}

theorem State.afterReset_of_resetDone (h : s.resetDone = true) (a : α) : s.afterReset a = .next a := if_pos h

theorem State.afterReset_of_not_resetDone (h : s.resetDone = false) (a : α) :
    s.afterReset a = .refused .beforeReset := if_neg (by simp [h])

theorem State.afterReset_eq_next {a b : α} (h : s.afterReset a = .next b) : s.resetDone = true ∧ b = a := by
  cases hreset : s.resetDone with
  | false => cases (s.afterReset_of_not_resetDone hreset a).symm.trans h
  | true =>
    cases (s.afterReset_of_resetDone hreset a).symm.trans h
    exact ⟨rfl, rfl⟩

theorem step_before_reset (h : s.resetDone = false) : step s = .refused .beforeReset :=
  State.stepWith_beforeReset h runFetched

theorem step_on_faulted (h : s.resetDone = true) (hf : s.fault.valid = true) : step s = .next s :=
  State.stepWith_faulted h hf runFetched

/-- What the host's writes leave: the one item each writes, in a machine that was reset (R214). -/
def State.afterHostWrite (s : State) : HostOp → State
  | .load bytes => s.loaded bytes
  | .setKeys keys => { s with key := keys }
  | .setDelay b => { s with dt := b }
  | .setSound b => { s with st := b }
  | .clearRedraw => { s with redraw := false }
  | .reset | .step => s

/-- Every operation of the host but reset and step goes through the guard of R35. -/
theorem hostDo_eq_afterReset {op : HostOp} (hreset : op ≠ .reset) (hstep : op ≠ .step) (s : State) :
    hostDo op s = s.afterReset (s.afterHostWrite op) := by
  cases op with
  | reset => exact absurd rfl hreset
  | step => exact absurd rfl hstep
  | _ => rfl

theorem hostDo_before_reset {op : HostOp} (h : s.resetDone = false) (hop : op ≠ .reset) :
    hostDo op s = .refused .beforeReset := by
  by_cases hstep : op = .step
  · rw [hstep]
    exact step_before_reset h
  · rw [hostDo_eq_afterReset hop hstep, s.afterReset_of_not_resetDone h]

theorem afterHostWrite_keeps (s : State) (op : HostOp) :
    (s.afterHostWrite op).fault = s.fault ∧ (s.afterHostWrite op).resetDone = s.resetDone := by
  cases op <;> simp [State.afterHostWrite]

/-- An operation that answers leaves RESET_DONE set: reset sets it, and the others require it and keep it. -/
theorem hostDo_resetDone {op : HostOp} (h : hostDo op s = .next t) : t.resetDone = true := by
  by_cases hreset : op = .reset
  · subst hreset
    cases h
    rfl
  · by_cases hstep : op = .step
    · subst hstep
      obtain ⟨-, -, hkept, -⟩ := stepNeverWritesTheHostsItems s t h
      rw [hkept, (step_cases h).2]
    · rw [hostDo_eq_afterReset hreset hstep] at h
      obtain ⟨hdone, rfl⟩ := State.afterReset_eq_next h
      rw [(afterHostWrite_keeps s op).2, hdone]

/-- Settles O13: the guard of R35 stands before everything but reset. -/
theorem operationsBeforeResetAreRefused : Obligations.OperationsBeforeResetAreRefused := by
  refine ⟨fun s op h hop => hostDo_before_reset h hop, fun s h => ?_, fun s => ⟨s.resetAgain, rfl⟩,
    fun s t op h => hostDo_resetDone h⟩
  have hguard {α : Type} (a : α) := s.afterReset_of_not_resetDone h a
  exact ⟨hguard _, hguard _, hguard _, hguard _, hguard _, fun _ => hguard _⟩

/-- Settles O57: each host read is one field, and each write one field update, once reset has run. -/
theorem hostWritesOneItemEach : Obligations.HostWritesOneItemEach := by
  intro s h
  have hguard {α : Type} (t : State) (ht : t.resetDone = true) (a : α) := t.afterReset_of_resetDone ht a
  refine ⟨hguard s h _, hguard s h _, hguard s h _, hguard s h _, hguard s h _, fun keys => ?_, fun b => ?_,
    fun b => ?_, ?_⟩
  · exact ⟨{ s with key := keys }, hguard s h _, fun _ => rfl, by simp [State.sameBut_iff]⟩
  · exact ⟨{ s with dt := b }, hguard s h _, rfl, hguard _ h _, by simp [State.sameBut_iff]⟩
  · exact ⟨{ s with st := b }, hguard s h _, rfl, hguard _ h _, by simp [State.sameBut_iff]⟩
  · exact ⟨{ s with redraw := false }, hguard s h _, hguard _ h _, by simp [State.sameBut_iff]⟩

/-- Settles O11: a step on a faulted machine answers the same state, and no host write touches FAULT. -/
theorem faultedMachineStandsStill : Obligations.FaultedMachineStandsStill := by
  intro s h hf
  have hstatus : hostFaultStatus s = .next (true, s.fault.cause.code) := by
    rw [hostFaultStatus, s.afterReset_of_resetDone h, hf]
  have hwrite {op : HostOp} (hreset : op ≠ .reset) (hstep : op ≠ .step) :
      hostDo op s = .next (s.afterHostWrite op) := by
    rw [hostDo_eq_afterReset hreset hstep, s.afterReset_of_resetDone h]
  refine ⟨step_on_faulted h hf, hstatus, fun op hreset => ?_, fun keys => ⟨_, hwrite nofun nofun, rfl⟩,
    fun b => ⟨_, hwrite nofun nofun, rfl⟩, fun b => ⟨_, hwrite nofun nofun, rfl⟩, ⟨_, hwrite nofun nofun, rfl⟩⟩
  by_cases hstep : op = .step
  · subst hstep
    exact ⟨s, step_on_faulted h hf, rfl⟩
  · exact ⟨_, hwrite hreset hstep, (afterHostWrite_keeps s op).1⟩

end

/-! ## The reset state (70_reset_and_hazards.md section 1) -/

theorem resetByte_eq_font {a : Nat} (h : a < 80) : some (resetByte a) = fontTable[a]? := by
  have hlen : a < fontTable.length := h
  rw [resetByte, List.getD_eq_getElem?_getD, List.getElem?_eq_getElem hlen, Option.getD_some]

theorem resetByte_past_font {a : Nat} (h : 80 ≤ a) : resetByte a = 0 := by
  have hlen : fontTable.length ≤ a := h
  rw [resetByte, List.getD_eq_getElem?_getD, List.getElem?_eq_none hlen, Option.getD_none]

/-- Settles O55: reset leaves no cell listed, so memory reads as the font and zeros, and every other item is the
table's literal. -/
theorem resetGivesTheTablesState : Obligations.ResetGivesTheTablesState :=
  fun s => ⟨s.resetAgain, rfl, rfl, fun _ ha => resetByte_eq_font ha, fun _ ha _ => resetByte_past_font ha,
    fun r => Vector.getElem_replicate r.isLt, rfl, rfl, fun k => Vector.getElem_replicate k.isLt, rfl, rfl, rfl,
    fun k => Vector.getElem_replicate k.isLt, fun k => Vector.getElem_replicate k.isLt, rfl, rfl, rfl, rfl, rfl⟩

/-- Settles O51: every item the invariant speaks of is a literal of the reset table. -/
theorem resetStateMeetsTheInvariant : Obligations.ResetStateMeetsTheInvariant := by
  intro d
  have hpc : State.reset.pc.toNat ≤ 0x10FE := by decide
  refine ⟨Memory.wf_nil, hpc, fun k => ?_, iff_of_false nofun fun hcause => hcause rfl, rfl⟩
  have hzero : (Vector.replicate 16 (0 : Word))[k] = 0 := Vector.getElem_replicate k.isLt
  exact (congrArg BitVec.toNat hzero).trans_le (Nat.zero_le _)

/-! ## The invariant along a run -/

theorem loaded_keeps_memWf {s : State} (h : Memory.wf s.mem = true) (bytes : List Byte) :
    Memory.wf (s.loaded bytes).mem = true := by
  rw [State.loaded_mem]
  split
  · exact Memory.writeBlock_wf h
  · exact h

/-- A host write touches of the invariant's items only memory, and that through a block write. -/
theorem afterHostWrite_inv {s : State} (h : s.Inv) (op : HostOp) : (s.afterHostWrite op).Inv := by
  cases op with
  | load bytes =>
    rw [State.afterHostWrite]
    constructor
    · exact loaded_keeps_memWf h.memWf bytes
    · simpa using h.pcBound
    · simpa using h.stackBound
    · simpa using h.faultWf
    · simpa using h.resetRan
  | _ => exact ⟨h.memWf, h.pcBound, h.stackBound, h.faultWf, h.resetRan⟩

/-- Settles O53: reset gives the reset state with the counter of draws going on; the others are host writes. -/
theorem hostOperationsKeepTheInvariant : Obligations.HostOperationsKeepTheInvariant := by
  intro op s t hstep hinv h
  by_cases hreset : op = .reset
  · subst hreset
    cases h
    exact resetStateMeetsTheInvariant s.draws
  · rw [hostDo_eq_afterReset hreset hstep] at h
    obtain ⟨-, rfl⟩ := State.afterReset_eq_next h
    exact afterHostWrite_inv hinv op

/-- The invariant holds of every state the host can bring the machine to. -/
theorem Reachable.inv {s : State} (h : Reachable s) : s.Inv := by
  induction h with
  | boot d => exact resetStateMeetsTheInvariant d
  | @op s t o _ hdo ih =>
    by_cases hstep : o = .step
    · subst hstep
      exact stepKeepsTheInvariant s t ih hdo
    · exact hostOperationsKeepTheInvariant o s t hstep ih hdo

/-- Settles O54: both bounds are clauses of the invariant. -/
theorem reachablePcIsBounded : Obligations.ReachablePcIsBounded := fun _ h => ⟨h.inv.pcBound, h.inv.stackBound⟩

end Sys2Proof.Machine

namespace Sys2Proof.Machine

/-! ## Words in memory and their fetch (20_memory.md, 30_encoding.md) -/

section
variable {s : State}

/-- Two bytes of a stored block are fetched together when pc points at the first (R61, R63). -/
theorem fetchWord_of_writeBlock {t : State} {m : Memory} {a k : Nat} {bs : List Byte} (hm : Memory.wf m = true)
    (hmem : t.mem = Memory.writeBlock m a bs) (hend : a + bs.length ≤ memSize) (hpc : t.pc.toNat = a + k)
    (hk : k + 1 < bs.length) : t.fetchWord = wordOfBytes bs[k] bs[k + 1] := by
  have hhi := Memory.read_writeBlock_inside bs hm hend k (Nat.lt_of_succ_lt hk)
  have hlo := Memory.read_writeBlock_inside bs hm hend (k + 1) hk
  rw [State.fetchWord, hmem, hpc]
  exact congrArg₂ wordOfBytes hhi hlo

theorem tableWord_sixteen (w : Nat) : tableWord 16 w = BitVec.ofNat 16 w := by
  apply BitVec.eq_of_toNat_eq
  simp [tableWord]

/-- Settles O7: the two bytes stored at pc are the fetched word's, and the block write is the only effect. -/
theorem placedWordIsFetched : Obligations.PlacedWordIsFetched := by
  intro s w hm hpc
  refine ⟨?_, ?_, ?_⟩
  · have hend : s.pc.toNat + 2 ≤ memSize := Nat.add_le_add_right hpc 2
    have hfetch := fetchWord_of_writeBlock (t := s.withFetchWord 16 w) (k := 0) hm rfl hend rfl Nat.one_lt_two
    rw [hfetch, ← tableWord_sixteen]
    exact wordOfBytes_bytes _
  · simp [State.sameBut_iff, State.withFetchWord]
  · exact State.bytesSameOutside_of_writeBlock (bs := bytesOfWord (tableWord 16 w)) rfl

end

/-! ## Control transfer (40_control_transfer.md) -/

/-- Settles O17: the pop's two cases, SP = 0 and SP = k + 1. -/
theorem returnPopsTheCallStack : Obligations.ReturnPopsTheCallStack := by
  refine ⟨decodeWord_encode (i := .ret) rfl, fun s => ⟨exec_ret_of_zero s, fun k hk => ?_⟩⟩
  exact ⟨_, exec_ret_of_pos s hk, rfl, rfl, by simp [State.sameBut_iff]⟩

/-- Settles O19: the push's two cases, SP = 16 and SP = k < 16. -/
theorem callPushesTheReturnAddress : Obligations.CallPushesTheReturnAddress := by
  intro nnn s
  refine ⟨decodeWord_encode (i := .callNnn nnn) rfl, exec_callNnn_of_full s nnn, fun k hk => ?_⟩
  exact ⟨_, exec_callNnn_of_room s nnn hk, stack_set_self, fun j hj => stack_set_of_ne hj, rfl, toNat_addrOperand nnn,
    by simp [State.sameBut_iff]⟩

@[simp] theorem toNat_byteOperand (b : Byte) : (byteOperand b).toNat = b.toNat :=
  BitVec.toNat_setWidth_of_le (by decide)

/-- 0xFF + 0xFFF needs 13 bits, so the sum does not wrap at 16 (R123). -/
theorem toNat_offsetTarget (s : State) (nnn : Addr) :
    (s.offsetTarget nnn).toNat = (s.getV 0).toNat + nnn.toNat := by
  have hbyte := (s.getV 0).isLt
  have haddr := nnn.isLt
  rw [State.offsetTarget, BitVec.toNat_add, toNat_byteOperand, toNat_addrOperand]
  omega

/-- Settles O20: the instruction is `jump` to a sum that does not wrap. -/
theorem offsetJumpAddsV0 : Obligations.OffsetJumpAddsV0 := fun nnn s =>
  ⟨decodeWord_encode (i := .jpV0Nnn nnn) rfl, s.jump (s.offsetTarget nnn), rfl, toNat_offsetTarget s nnn,
    s.sameBut_jump _⟩

/-! ## Registers and ALU (42_register_alu.md) -/

/-- Settles O24: each of the three is one `setV` of a bitwise operation. -/
theorem logicIsBitwiseAndLeavesTheFlag : Obligations.LogicIsBitwiseAndLeavesTheFlag := by
  intro x y s
  refine ⟨⟨decodeWord_encode (i := .orVxVy x y) rfl, ?_⟩, ⟨decodeWord_encode (i := .andVxVy x y) rfl, ?_⟩,
    ⟨decodeWord_encode (i := .xorVxVy x y) rfl, ?_⟩⟩
  · obtain ⟨t, hexec, hvx, hframe⟩ := exec_of_setV (i := .orVxVy x y) (s := s) rfl
    exact ⟨t, hexec, fun j _ => by rw [hvx, BitVec.getLsbD_or], hframe⟩
  · obtain ⟨t, hexec, hvx, hframe⟩ := exec_of_setV (i := .andVxVy x y) (s := s) rfl
    exact ⟨t, hexec, fun j _ => by rw [hvx, BitVec.getLsbD_and], hframe⟩
  · obtain ⟨t, hexec, hvx, hframe⟩ := exec_of_setV (i := .xorVxVy x y) (s := s) rfl
    exact ⟨t, hexec, fun j _ => by rw [hvx, BitVec.getLsbD_xor], hframe⟩

theorem toNat_flagByte (f : Bool) : (flagByte f).toNat = f.toNat := by cases f <;> rfl

theorem toNat_flagByte_decide (p : Prop) [Decidable p] : (flagByte (decide p)).toNat = if p then 1 else 0 := by
  rw [flagByte, if_congr decide_eq_true_iff rfl rfl]
  split <;> rfl

/-- The effect of an instruction that writes a byte of value `r` to Vx and then a flag of value `q` to VF (R23). -/
theorem exec_of_setResultAndFlag {i : Instr} {s : State} {x : Reg} {b : Byte} {f : Bool} {r q : Nat}
    (hexec : exec i s = .next (s.advance.setResultAndFlag x b f)) (hresult : b.toNat = r)
    (hflag : (flagByte f).toNat = q) :
    ∃ t, exec i s = .next t ∧ (x ≠ 0xF → (t.getV x).toNat = r) ∧ (t.getV 0xF).toNat = q ∧
      s.regsSameBut t [x, 0xF] ∧ t.pc = s.pc + 2 ∧ s.sameBut t [.v, .pc] := by
  refine ⟨_, hexec, fun hx => ?_, ?_, s.regsSameBut_advance_setResultAndFlag x b f, rfl, by simp [State.sameBut_iff]⟩
  · rw [State.getV_setResultAndFlag_of_ne_vf _ hx, hresult]
  · exact (congrArg BitVec.toNat (State.getV_setResultAndFlag_vf _ x b f)).trans hflag

/-- Settles O25: the byte sum wraps, and the carry is the comparison of the unwrapped sum. -/
theorem addSetsVfToTheCarry : Obligations.AddSetsVfToTheCarry := fun x y _ =>
  ⟨decodeWord_encode (i := .addVxVy x y) rfl,
    exec_of_setResultAndFlag rfl (BitVec.toNat_add _ _) (toNat_flagByte_decide _)⟩

/-- A byte difference, modulo 256 (R148). -/
theorem toNat_byte_sub (a b : Byte) : (a - b).toNat = (a.toNat + 256 - b.toNat) % 256 := by
  have hb := b.isLt
  rw [BitVec.toNat_sub]
  omega

/-- Settles O26: the byte difference wraps, and the flag is the comparison of the operands. -/
theorem subSetsVfToNoBorrow : Obligations.SubSetsVfToNoBorrow := fun x y _ =>
  ⟨decodeWord_encode (i := .subVxVy x y) rfl,
    exec_of_setResultAndFlag rfl (toNat_byte_sub _ _) (toNat_flagByte_decide _)⟩

/-- Settles O27: the same with the operands exchanged. -/
theorem subnSetsVfToNoBorrow : Obligations.SubnSetsVfToNoBorrow := fun x y _ =>
  ⟨decodeWord_encode (i := .subnVxVy x y) rfl,
    exec_of_setResultAndFlag rfl (toNat_byte_sub _ _) (toNat_flagByte_decide _)⟩

theorem toNat_flagByte_lowBit (a : Byte) : (flagByte (lowBit a)).toNat = a.toNat % 2 := by
  rw [toNat_flagByte, lowBit, BitVec.getLsbD, Nat.toNat_testBit, Nat.pow_zero, Nat.div_one]

theorem toNat_flagByte_highBit (a : Byte) : (flagByte (highBit a)).toNat = a.toNat / 128 := by
  have ha := a.isLt
  rw [toNat_flagByte, highBit, BitVec.getLsbD, Nat.toNat_testBit]
  omega

theorem toNat_byte_shiftRight_one (a : Byte) : (a >>> 1).toNat = a.toNat / 2 := by
  rw [BitVec.toNat_ushiftRight, Nat.shiftRight_one]

theorem toNat_byte_shiftLeft_one (a : Byte) : (a <<< 1).toNat = a.toNat * 2 % 256 := by
  rw [BitVec.toNat_shiftLeft, Nat.shiftLeft_eq]

/-- Settles O28: neither shift reads Vy; the bit each shifts out is the parity or the top bit of the old Vx. -/
theorem shiftsMoveOneBitIntoVf : Obligations.ShiftsMoveOneBitIntoVf := fun x y _ =>
  ⟨⟨decodeWord_encode (i := .shrVx x y) rfl,
      exec_of_setResultAndFlag rfl (toNat_byte_shiftRight_one _) (toNat_flagByte_lowBit _)⟩,
    ⟨decodeWord_encode (i := .shlVx x y) rfl,
      exec_of_setResultAndFlag rfl (toNat_byte_shiftLeft_one _) (toNat_flagByte_highBit _)⟩⟩

/-! ## Index register and memory (43_index_memory.md) -/

/-- 0xFF · 5 fits 16 bits (R163). -/
theorem toNat_glyphAddress (b : Byte) : (glyphAddress b).toNat = b.toNat * 5 := by
  have hb := b.isLt
  rw [glyphAddress, BitVec.toNat_mul, toNat_byteOperand]
  exact Nat.mod_eq_of_lt (by simp; omega)

/-- Settles O30: each is one write to I, of a sum that wraps at 16 bits or of a product that fits. -/
theorem indexArithmeticUsesSixteenBits : Obligations.IndexArithmeticUsesSixteenBits := by
  intro x s
  refine ⟨⟨decodeWord_encode (i := .addIVx x) rfl, ?_⟩, ⟨decodeWord_encode (i := .ldFVx x) rfl, ?_⟩⟩
  · obtain ⟨t, hexec, hi, hframe⟩ := exec_of_with_i (i := .addIVx x) (s := s) rfl
    have hsum : t.i.toNat = (s.i.toNat + (s.getV x).toNat) % 65536 := by
      rw [hi, BitVec.toNat_add, toNat_byteOperand]
    exact ⟨t, hexec, hsum, hframe⟩
  · obtain ⟨t, hexec, hi, hframe⟩ := exec_of_with_i (i := .ldFVx x) (s := s) rfl
    exact ⟨t, hexec, by rw [hi, toNat_glyphAddress], hframe⟩

theorem toNat_ofNat_of_le_byte {n : Nat} {b : Byte} (h : n ≤ b.toNat) : (BitVec.ofNat 8 n).toNat = n := by
  rw [BitVec.toNat_ofNat, Nat.mod_eq_of_lt (h.trans_lt b.isLt)]

/-- Settles O31: the block stored is the three digits, each of which fits a byte, and reading it gives it back. -/
theorem decimalDigitsAreStored : Obligations.DecimalDigitsAreStored := by
  intro x s
  refine ⟨decodeWord_encode (i := .ldBVx x) rfl, fun hbad => exec_of_faultOf (if_pos hbad), fun hok => ?_⟩
  have hnone : faultOf (.ldBVx x) s = none := if_neg (Nat.not_lt.2 hok)
  refine ⟨_, exec_ldBVx_of_no_fault hnone, fun hm => ?_, (completes_decimal s x).bytes, rfl,
    by simp [State.sameBut_iff]⟩
  have hread (k : Nat) (hk : k < 3) :=
    Memory.read_writeBlock_inside (a := s.baseAddress) (decimalDigits (s.getV x)) hm (Nat.succ_le_succ hok) k hk
  refine ⟨?_, ?_, ?_⟩
  · exact (congrArg BitVec.toNat (hread 0 (by decide))).trans (toNat_ofNat_of_le_byte (Nat.div_le_self _ _))
  · exact (congrArg BitVec.toNat (hread 1 (by decide))).trans
      (toNat_ofNat_of_le_byte ((Nat.mod_le _ _).trans (Nat.div_le_self _ _)))
  · exact (congrArg BitVec.toNat (hread 2 (by decide))).trans (toNat_ofNat_of_le_byte (Nat.mod_le _ _))

/-- Byte `n` of the block `Fx55` stores is register `n` (R165). -/
theorem getElem_regsUpTo_eq_getV (s : State) {x r : Reg} {n : Nat} (hn : n < (s.regsUpTo x).length)
    (hr : r.toNat = n) : (s.regsUpTo x)[n] = s.getV r := by
  subst hr
  exact s.getElem_regsUpTo x r.toNat hn r.isLt

theorem storedBlock_in_memory {s : State} {x : Reg} (hok : s.i.toNat + x.toNat ≤ 0xFFF) :
    s.baseAddress + (s.regsUpTo x).length ≤ memSize := by
  rw [State.length_regsUpTo]
  exact Nat.succ_le_succ hok

/-- Settles O32: the block stored is V0 to Vx, and reading the block gives it back. -/
theorem registerBlockIsStored : Obligations.RegisterBlockIsStored := by
  intro x s
  refine ⟨decodeWord_encode (i := .ldMemVx x) rfl, fun hbad => exec_of_faultOf (if_pos hbad), fun hok => ?_⟩
  have hnone : faultOf (.ldMemVx x) s = none := if_neg (Nat.not_lt.2 hok)
  refine ⟨_, exec_ldMemVx_of_no_fault hnone, fun hm k hk => ?_, (completes_store s x).bytes, rfl,
    by simp [State.sameBut_iff]⟩
  have hin : k.toNat < (s.regsUpTo x).length := by
    rw [State.length_regsUpTo]
    exact Nat.lt_succ_of_le hk
  have hread := Memory.read_writeBlock_inside (s.regsUpTo x) hm (storedBlock_in_memory hok) k.toNat hin
  exact hread.trans (getElem_regsUpTo_eq_getV s hin rfl)

/-- Settles O33: the registers below x + 1 hold the bytes read, and the others are outside the block. -/
theorem registerBlockIsLoaded : Obligations.RegisterBlockIsLoaded := by
  intro x s
  refine ⟨decodeWord_encode (i := .ldVxMem x) rfl, fun hbad => exec_of_faultOf (if_pos hbad), fun hok => ?_⟩
  have hnone : faultOf (.ldVxMem x) s = none := if_neg (Nat.not_lt.2 hok)
  refine ⟨_, exec_ldVxMem_of_no_fault hnone, fun k hk => ?_, fun k hk => ?_, rfl, by simp [State.sameBut_iff]⟩
  · rw [getV_of_putRegs s rfl]
    exact if_pos (Nat.lt_succ_of_le hk)
  · rw [getV_of_putRegs s rfl]
    exact if_neg (Nat.not_lt.2 hk)

/-- Settles O34: the fetch reads two neighbouring bytes of the stored block, which are two neighbouring registers. -/
theorem storeIsSeenByTheNextFetch : Obligations.StoreIsSeenByTheNextFetch := by
  intro x k s t hm hok hexec hk hpc
  have hnone : faultOf (.ldMemVx x) s = none := if_neg (Nat.not_lt.2 hok)
  have hmem : t.mem = Memory.writeBlock s.mem s.baseAddress (s.regsUpTo x) := by
    rw [exec_ldMemVx_of_no_fault hnone] at hexec
    cases hexec
    rfl
  have hin : k.toNat + 1 < (s.regsUpTo x).length := by
    rw [State.length_regsUpTo]
    exact Nat.succ_lt_succ hk
  have hnext : (k + 1).toNat = k.toNat + 1 := by
    have hx := x.isLt
    rw [BitVec.toNat_add]
    exact Nat.mod_eq_of_lt (by simp; omega)
  rw [fetchWord_of_writeBlock hm hmem (storedBlock_in_memory hok) hpc hin, wordOfBytes_eq_shiftLeft_or,
    getElem_regsUpTo_eq_getV s _ rfl, getElem_regsUpTo_eq_getV s _ hnext]

/-! ## Random byte, timers, keypad (44_random_timers_keypad.md) -/

/-- Settles O35: one `setV` of the drawn byte AND nn, after the draw is used up. -/
theorem randomByteIsMasked : Obligations.RandomByteIsMasked := by
  intro x nn s
  refine ⟨decodeWord_encode (i := .rndVxNn x nn) rfl, _, rfl, rfl, fun j _ => ?_,
    s.drawRandom.2.regsSameBut_advance_setV x _, rfl, by simp [State.sameBut_iff]⟩
  rw [State.getV_setV_self, BitVec.getLsbD_and]
  rfl

/-- Settles O36: each is one write, of the register or of the timer; the step's tick is outside `exec`. -/
theorem timerTransfers : Obligations.TimerTransfers := fun x _ =>
  ⟨⟨decodeWord_encode (i := .ldVxDt x) rfl, exec_of_setV rfl⟩,
    ⟨decodeWord_encode (i := .ldDtVx x) rfl, _, rfl, rfl, rfl, by simp [State.sameBut_iff]⟩,
    ⟨decodeWord_encode (i := .ldStVx x) rfl, _, rfl, rfl, rfl, by simp [State.sameBut_iff]⟩⟩

theorem keyDown_keyOperand {s : State} {x : Reg} {k : Fin 16} (h : (s.getV x).toNat = k.val) :
    s.keyDown (s.keyOperand x) = s.key[k] := by
  rw [State.keyOperand, h]
  exact s.keyDown_of_lt k.isLt

/-- Settles O37: Vx names no key, or each skips on the latch of that key or on its negation. -/
theorem keySkipsTestTheLatch : Obligations.KeySkipsTestTheLatch := by
  intro x s
  refine ⟨decodeWord_encode (i := .skpVx x) rfl, decodeWord_encode (i := .sknpVx x) rfl,
    fun hbad => ⟨exec_of_faultOf (if_pos hbad), exec_of_faultOf (if_pos hbad)⟩, fun k hk => ?_⟩
  have hok : ¬ (s.getV x).toNat > 0x0F := by omega
  have hskp : exec (.skpVx x) s = .next (s.advance.skipIf s.key[k]) := by
    have hnone : faultOf (.skpVx x) s = none := if_neg hok
    rw [exec_skpVx, hnone, keyDown_keyOperand hk]
    rfl
  have hsknp : exec (.sknpVx x) s = .next (s.advance.skipIf (!s.key[k])) := by
    have hnone : faultOf (.sknpVx x) s = none := if_neg hok
    rw [exec_sknpVx, hnone, keyDown_keyOperand hk]
    rfl
  exact ⟨exec_of_skip hskp Iff.rfl, exec_of_skip hsknp (Bool.not_eq_true' _ ▸ Iff.rfl)⟩

end Sys2Proof.Machine

namespace Sys2Proof.Machine

/-! ## Drawing (45_display.md) -/

section
variable (s : State) (x y : Reg)

/-- The cells of the draw's list are those the sprite covers (R182, R184). -/
theorem mem_spriteCells_iff_covers (n : Nat) (k : Fin 2048) :
    k ∈ spriteCells s.mem s.baseAddress (s.coordinate x) (s.coordinate y) n ↔ s.spriteCovers x y n k := by
  simp only [mem_spriteCells, State.spriteCovers, spriteCell, Fin.ext_iff, State.baseAddress, State.coordinate]

variable {n : Nat} (hn : n ≤ 15)
include hn

theorem drawn_spec : let cells := spriteCells s.mem s.baseAddress (s.coordinate x) (s.coordinate y) n
    (∀ k : Fin 2048, (s.drawn x y n).1[k] = if k ∈ cells then !s.fb[k] else s.fb[k]) ∧
      (s.drawn x y n).2 = cells.any fun k => s.fb[k] :=
  drawRows_spec s.mem s.baseAddress (s.coordinate x) (s.coordinate y) (hn.trans (by decide)) s.fb

/-- A covered cell flips (R182). -/
theorem afterDraw_fb_of_covers {k : Fin 2048} (hk : s.spriteCovers x y n k) :
    (s.afterDraw x y n).fb[k] = !s.fb[k] := by
  exact ((drawn_spec s x y hn).1 k).trans (if_pos ((mem_spriteCells_iff_covers s x y n k).2 hk))

theorem afterDraw_fb_of_not_covers {k : Fin 2048} (hk : ¬ s.spriteCovers x y n k) :
    (s.afterDraw x y n).fb[k] = s.fb[k] := by
  exact ((drawn_spec s x y hn).1 k).trans (if_neg fun hmem => hk ((mem_spriteCells_iff_covers s x y n k).1 hmem))

/-- The flag of a draw: some covered cell was lit (R182). -/
theorem drawn_flag_iff : (s.drawn x y n).2 = true ↔ ∃ k : Fin 2048, s.spriteCovers x y n k ∧ s.fb[k] = true := by
  rw [(drawn_spec s x y hn).2, List.any_eq_true]
  exact exists_congr fun k => and_congr_left' (mem_spriteCells_iff_covers s x y n k)

omit hn in
theorem afterDraw_vf : (s.afterDraw x y n).getV 0xF = flagByte (s.drawn x y n).2 := State.getV_setV_self _ _ _

theorem afterDraw_vf_eq_one_iff :
    (s.afterDraw x y n).getV 0xF = 1 ↔ ∃ k : Fin 2048, s.spriteCovers x y n k ∧ s.fb[k] = true := by
  rw [← drawn_flag_iff s x y hn, afterDraw_vf]
  cases (s.drawn x y n).2 <;> decide

/-- A cell goes from 1 to 0 exactly when it is covered and was lit. -/
theorem turnedOff_iff {k : Fin 2048} :
    (s.fb[k] = true ∧ (s.afterDraw x y n).fb[k] = false) ↔ s.spriteCovers x y n k ∧ s.fb[k] = true := by
  by_cases hk : s.spriteCovers x y n k
  · simp [hk, afterDraw_fb_of_covers s x y hn hk]
  · simp [hk, afterDraw_fb_of_not_covers s x y hn hk]

theorem collision_iff : (∃ k : Fin 2048, s.fb[k] = true ∧ (s.afterDraw x y n).fb[k] = false) ↔
    (s.drawn x y n).2 = true :=
  (exists_congr fun _ => turnedOff_iff s x y hn).trans (drawn_flag_iff s x y hn).symm

end

theorem afterDraw_regsSameBut (s : State) (x y : Reg) (n : Nat) : s.regsSameBut (s.afterDraw x y n) [0xF] :=
  (completes_draw s x y n).regs

/-- Settles O40: the cells the drawing loop toggles are those the sprite covers, and the flag it keeps says whether one
of them was lit, which is when a cell goes from 1 to 0. -/
theorem drawXorsTheSpriteAndReportsCollision : Obligations.DrawXorsTheSpriteAndReportsCollision := by
  intro x y n s hn
  refine ⟨decodeWord_encode (i := .drwVxVyN x y n) (decide_eq_true hn),
    fun hpos hend => exec_of_faultOf (if_pos ⟨hpos, hend⟩), fun hok => ?_⟩
  have hnone : faultOf (.drwVxVyN x y n) s = none := if_neg fun ⟨hpos, hend⟩ => Nat.not_lt.2 (hok hpos) hend
  refine ⟨s.afterDraw x y n, exec_drwVxVyN_of_no_fault hnone,
    fun k => ⟨afterDraw_fb_of_covers s x y hn, afterDraw_fb_of_not_covers s x y hn⟩, fun hcollide => ?_,
    fun hclear => ?_, rfl, afterDraw_regsSameBut s x y n, rfl, by simp [State.sameBut_iff, State.afterDraw]⟩
  · rw [afterDraw_vf, (collision_iff s x y hn).1 hcollide]
    rfl
  · rw [afterDraw_vf, Bool.eq_false_iff.2 fun hlit => hclear ((collision_iff s x y hn).2 hlit)]
    rfl

/-- Settles O41: no row, so no range to check and no cell toggled. -/
theorem drawOfNoRows : Obligations.DrawOfNoRows := fun x y s =>
  ⟨decodeWord_encode (i := .drwVxVyN x y 0) rfl, s.afterDraw x y 0, exec_drwVxVyN_of_no_fault rfl,
    afterDraw_vf s x y, rfl, afterDraw_regsSameBut s x y 0, rfl, by simp [State.sameBut_iff, State.afterDraw, State.drawn, drawRows]⟩

/-- The second draw at the same place covers the same cells: the first writes of what `spriteCovers` reads VF alone. -/
theorem afterDraw_covers_iff {s : State} {x y : Reg} {n : Nat} (hx : x ≠ 0xF) (hy : y ≠ 0xF) (k : Fin 2048) :
    (s.afterDraw x y n).spriteCovers x y n k ↔ s.spriteCovers x y n k := by
  have hvx : (s.afterDraw x y n).getV x = s.getV x := afterDraw_regsSameBut s x y n x (by simpa using hx)
  have hvy : (s.afterDraw x y n).getV y = s.getV y := afterDraw_regsSameBut s x y n y (by simpa using hy)
  rw [State.spriteCovers, hvx, hvy]
  rfl

/-- Settles O42: both draws cover the same cells, so a covered cell flips twice and the others stay; the second draw's
flag says whether a covered cell is lit after the first, that is, was not before. -/
theorem drawingTwiceRestoresTheFramebuffer : Obligations.DrawingTwiceRestoresTheFramebuffer := by
  intro x y n s hn hx hy hnone
  have hcovers := afterDraw_covers_iff (s := s) (n := n) hx hy
  have hagain : faultOf (.drwVxVyN x y n) (s.afterDraw x y n) = none := hnone
  refine ⟨s.afterDraw x y n, _, exec_drwVxVyN_of_no_fault hnone, exec_drwVxVyN_of_no_fault hagain, ?_, ?_⟩
  · refine Vector.ext fun k hk => ?_
    by_cases hcov : s.spriteCovers x y n ⟨k, hk⟩
    · have htwice := afterDraw_fb_of_covers (s.afterDraw x y n) x y hn ((hcovers _).2 hcov)
      rw [afterDraw_fb_of_covers s x y hn hcov, Bool.not_not] at htwice
      exact htwice
    · have htwice := afterDraw_fb_of_not_covers (s.afterDraw x y n) x y hn fun h => hcov ((hcovers _).1 h)
      rw [afterDraw_fb_of_not_covers s x y hn hcov] at htwice
      exact htwice
  · rw [afterDraw_vf_eq_one_iff _ x y hn]
    refine exists_congr fun k => ?_
    rw [hcovers]
    refine and_congr_right fun hcov => ?_
    rw [afterDraw_fb_of_covers s x y hn hcov, Bool.not_eq_true']

/-! ## No instruction reads ST or REDRAW (10_state.md section 15) -/

/-- The state with other values in ST and REDRAW. -/
def State.withStRedraw (s : State) (b : Byte) (f : Bool) : State := { s with st := b, redraw := f }

/-- The two answers are next states that differ at most in ST and REDRAW. -/
def AgreeUpToStRedraw (answer answer' : Result) : Prop :=
  ∃ t u, answer = .next t ∧ answer' = .next u ∧ t.sameBut u [.st, .redraw]

section
variable {i : Instr} {s t u : State} {b : Byte} {f : Bool}

theorem AgreeUpToStRedraw.next (hexec : exec i s = .next t) (hexec' : exec i (s.withStRedraw b f) = .next u)
    (h : ∃ b' f', u = t.withStRedraw b' f') : AgreeUpToStRedraw (exec i s) (exec i (s.withStRedraw b f)) := by
  obtain ⟨b', f', rfl⟩ := h
  refine ⟨t, _, hexec, hexec', ?_⟩
  simp [State.sameBut_iff, State.withStRedraw]

/-- The fault of both, or the two effects. -/
theorem AgreeUpToStRedraw.faultOrNext {c : Option FaultCause} (hexec : exec i s = .next (c.elim t s.raiseFault))
    (hexec' : exec i (s.withStRedraw b f) = .next (c.elim u (s.withStRedraw b f).raiseFault))
    (h : ∃ b' f', u = t.withStRedraw b' f') : AgreeUpToStRedraw (exec i s) (exec i (s.withStRedraw b f)) := by
  cases c with
  | none => exact .next hexec hexec' h
  | some c => exact .next hexec hexec' ⟨b, f, rfl⟩

theorem skipIf_withStRedraw (s : State) (b : Byte) (f c : Bool) :
    (s.withStRedraw b f).advance.skipIf c = (s.advance.skipIf c).withStRedraw b f := by
  cases c <;> rfl

end

/-- What an instruction tests and computes is a function of the other items. -/
theorem exec_agreeUpToStRedraw (i : Instr) (s : State) (b : Byte) (f : Bool) :
    AgreeUpToStRedraw (exec i s) (exec i (s.withStRedraw b f)) := by
  cases i with
  | ret =>
    by_cases hsp : s.sp.val = 0
    · exact .next (exec_ret_of_zero s hsp) (exec_ret_of_zero _ hsp) ⟨b, f, rfl⟩
    · obtain ⟨k, hk⟩ := sp_of_ret_no_fault s (if_neg hsp)
      exact .next (exec_ret_of_pos s hk) (exec_ret_of_pos (s.withStRedraw b f) hk) ⟨b, f, rfl⟩
  | callNnn nnn =>
    by_cases hsp : s.sp.val = 16
    · exact .next (exec_callNnn_of_full s nnn hsp) (exec_callNnn_of_full _ nnn hsp) ⟨b, f, rfl⟩
    · obtain ⟨k, hk⟩ := sp_of_callNnn_no_fault (nnn := nnn) s (if_neg hsp)
      exact .next (exec_callNnn_of_room s nnn hk) (exec_callNnn_of_room (s.withStRedraw b f) nnn hk) ⟨b, f, rfl⟩
  | ldVxK x =>
    have hsame : (s.withStRedraw b f).firstKey = s.firstKey := rfl
    cases hkey : s.firstKey with
    | none => exact .next (exec_ldVxK_of_none hkey x) (exec_ldVxK_of_none (hsame.trans hkey) x) ⟨b, f, rfl⟩
    | some k => exact .next (exec_ldVxK_of_some hkey x) (exec_ldVxK_of_some (hsame.trans hkey) x) ⟨b, f, rfl⟩
  | drwVxVyN x y n => exact .faultOrNext (exec_drwVxVyN s x y n) (exec_drwVxVyN _ x y n) ⟨b, true, rfl⟩
  | ldBVx x => exact .faultOrNext (exec_ldBVx s x) (exec_ldBVx _ x) ⟨b, f, rfl⟩
  | ldMemVx x => exact .faultOrNext (exec_ldMemVx s x) (exec_ldMemVx _ x) ⟨b, f, rfl⟩
  | ldVxMem x => exact .faultOrNext (exec_ldVxMem s x) (exec_ldVxMem _ x) ⟨b, f, rfl⟩
  | skpVx x => exact .faultOrNext (exec_skpVx s x) (exec_skpVx _ x) ⟨b, f, skipIf_withStRedraw s b f _⟩
  | sknpVx x => exact .faultOrNext (exec_sknpVx s x) (exec_sknpVx _ x) ⟨b, f, skipIf_withStRedraw s b f _⟩
  | seVxNn _ _ | sneVxNn _ _ | seVxVy _ _ | sneVxVy _ _ =>
    exact .next rfl rfl ⟨b, f, skipIf_withStRedraw s b f _⟩
  | _ => exact .next rfl rfl ⟨_, _, rfl⟩

/-- Settles O50: two states that differ in ST and REDRAW give an instruction the same fault, or effects that differ
there only. -/
theorem noInstructionReadsSoundTimerOrRedraw : Obligations.NoInstructionReadsSoundTimerOrRedraw :=
  exec_agreeUpToStRedraw

end Sys2Proof.Machine
end
